-- ==== Sys2Proof/Word.lean ====
section
/-!
DEFINITION. The machine's words (00_scope.md R8): bytes of 8 bits, counts, cursors and buffer indices of 16 bits
(LEN_BITS), flash addresses of 24 bits, host registers of 32 bits, all unsigned.
-/

namespace Sys2Proof

/-- One byte of `bufmem`, of a wire or of the flash chip (R8). -/
abbrev Byte := BitVec 8

/-- A byte count, a buffer index or a cursor: LEN_BITS = 16 (00_scope.md R7, R8). -/
abbrev Half := BitVec 16

/-- A flash address: FLASH_ADDR_BITS = 24 (00_scope.md R7, R8). -/
abbrev FlashAddr := BitVec 24

/-- A host register or a command word (R8). -/
abbrev Word := BitVec 32

end Sys2Proof
end

