-- ==== Sys2Proof/Syntax.lean ====
section
/-!
DEFINITION. The instructions (spec/opcode_table.json, one constructor per row), the opcodes of a command word, the
command bytes of a flash wire frame, and the moves of the four kinds of agent (00_scope.md R10).
-/

namespace Sys2Proof

/-- One constructor per row of spec/opcode_table.json. The first sixteen are command words (30_encoding.md R63); a
command takes its operands from registers, so only I2C_WRITE has one in its word: `stop` is `CMD[8]` (R61). The
last six are flash wire frames (R66): `tail` is the frame's bytes after the command byte. -/
inductive Instr where
  | bindTx
  | bindRx
  | i2cInit
  | i2cWrite (stop : Bool)
  | i2cRead
  | spiInit
  | spiWrite
  | spiRead
  | spiBusy
  | spiCsLow
  | spiCsHigh
  | flashInit
  | flashReadId
  | flashRead
  | flashWrite
  | flashBusy
  | frameReadId (tail : List Byte)
  | frameRead (tail : List Byte)
  | frameWriteEnable (tail : List Byte)
  | frameSectorErase (tail : List Byte)
  | framePageProgram (tail : List Byte)
  | frameReadStatus (tail : List Byte)
  deriving DecidableEq, Repr

/-- The sixteen opcodes of 30_encoding.md R63, as `op.opc` names them (10_state.md R20). -/
inductive Opcode where
  | bindTx | bindRx
  | i2cInit | i2cWrite | i2cRead
  | spiInit | spiWrite | spiRead | spiBusy | spiCsLow | spiCsHigh
  | flashInit | flashReadId | flashRead | flashWrite | flashBusy
  deriving DecidableEq, Repr

/-- The six flash command bytes of 30_encoding.md R66, by name. -/
inductive FrameCmd where
  | readId | read | writeEnable | sectorErase | pageProgram | readStatus
  deriving DecidableEq, Repr

/-- The two formats of 30_encoding.md R60: which one a code has is told by where its bits arrive. -/
inductive Code where
  /-- a word written to `CMD` -/
  | cmd32 (w : Word)
  /-- the MOSI bytes of one chip-select frame -/
  | spiFrame (bytes : List Byte)
  deriving DecidableEq, Repr

/-- Which way a host access goes. -/
inductive Dir where
  | read | write
  deriving DecidableEq, Repr

/-- One host access (20_memory.md R37, R38): its direction, its width in bits, its offset from ENGINE_BASE, and, for
a write, the data (the low `bits` bits of `data`). -/
structure HostAccess where
  dir : Dir
  bits : Nat
  off : Nat
  data : Word
  deriving DecidableEq, Repr

/-- The sequencer's steps (the blocking calls resuming). -/
inductive SeqStep where
  /-- I2C write continuation, 41_i2c.md R90 -/
  | i2cWriteCont
  /-- I2C write finish after the stop, 41_i2c.md R91 -/
  | i2cWriteFinish
  /-- I2C read finish, 41_i2c.md R94 -/
  | i2cReadFinish
  /-- SPI go, 42_spi.md R106 -/
  | spiGo
  /-- SPI finish, 42_spi.md R109 -/
  | spiFinish
  /-- completion of SPI_CS_HIGH, 42_spi.md R112 -/
  | csHighFinish
  /-- one step of the flash sequencer, 43_flash.md R122 -/
  | flashStep
  /-- flash completion, 43_flash.md R129 -/
  | flashFinish
  deriving DecidableEq, Repr

/-- The five interrupt sources of 40_arbiter.md R76. -/
inductive Source where
  | i2cTx | i2cRx | i2cNack | spiTx | spiRx
  deriving DecidableEq, Repr

/-- The environment's events, each with the value the environment chooses (00_scope.md R9, "env chooses v"). -/
inductive EnvEvent where
  /-- EV_I2C_TXRDY, 41_i2c.md R95 -/
  | i2cTxRdy
  /-- EV_I2C_NACK, 41_i2c.md R96 -/
  | i2cNack
  /-- EV_I2C_RXBYTE(v), 41_i2c.md R97 -/
  | i2cRxByte (v : Byte)
  /-- EV_I2C_STOP_DONE, 41_i2c.md R98 -/
  | i2cStopDone
  /-- EV_SPI_LOAD, 42_spi.md R113 -/
  | spiLoad
  /-- EV_SPI_SHIFT_DONE, 42_spi.md R114: `line` stands for every MISO bit the device's contract leaves open -/
  | spiShiftDone (line : Byte)
  /-- EV_ERASE_DELAY, 43_flash.md R121 -/
  | eraseDelay
  /-- EV_FLASH_READY, 20_memory.md R59 -/
  | flashReady
  /-- a power cycle of the flash chip, which keeps its memory (20_memory.md R52); entry 21, DESIGN CHOICE -/
  | flashPowerCycle (wel wip : Bool)
  deriving DecidableEq, Repr

/-- One step of one agent (00_scope.md R10), or the platform's reset (70_reset_and_hazards.md R158). -/
inductive Move where
  | host (a : HostAccess)
  | seq (k : SeqStep)
  | isr (src : Source)
  | env (e : EnvEvent)
  | reset
  deriving DecidableEq, Repr, Inhabited

end Sys2Proof
end

