-- ==== Sys2Proof/Config.lean ====
section
/-!
DEFINITION. What an implementation fixes (00_scope.md R7) and the free values: a constant without a body is a value
the spec leaves open, and nothing can be proved of it but what holds of every value.
-/

namespace Sys2Proof

/-! The constants of 00_scope.md R7 that no rule reads (70_reset_and_hazards.md R170). -/

/-- F_SRC, in Hz (R7). -/
def Config.sourceClockHz : Nat := 16000000
/-- I2C_BITRATE, in bit/s (R7). -/
def Config.i2cBitRate : Nat := 100000
/-- SPI_BITRATE, in bit/s (R7). -/
def Config.spiBitRate : Nat := 100000
/-- BITRATE_DIV (R7). -/
def Config.bitRateDivider : Nat := 160
/-- ERASE_DELAY, in milliseconds, about 0.75 s (R7). -/
def Config.eraseDelayMs : Nat := 750

/-! The geometry of the reference flash chip (R7, 92_eei_decisions.md D31, D32; entry 23). -/

/-- The number of flash addresses: 2 to the power of FLASH_ADDR_BITS = 24 (R7, 20_memory.md R35). -/
def Config.flashBytes : Nat := 16777216
/-- SECTOR_BYTES (R7). -/
def Config.sectorBytes : Nat := 65536
/-- PAGE_BYTES (R7). -/
def Config.pageBytes : Nat := 256
/-- WIP_BIT (R7). -/
def Config.wipBit : Nat := 0
/-- WEL_BIT (R7). -/
def Config.welBit : Nat := 1

/-! The OPEN parameters (R7, 92_eei_decisions.md; entry 5). -/

/-- ENGINE_BASE: the host address of register offset 0x000. OPEN. -/
opaque Config.engineBase : Nat
/-- SPI_CPOL: the SPI clock's idle level. OPEN; no rule reads it. -/
opaque Config.spiCpol : Bool
/-- FLASH_ID: identification byte 0, 1 or 2 of the flash chip. OPEN. -/
opaque Config.flashId : Nat → Byte

/-! The free values. -/

/-- What `bufmem[i]` holds after a reset until it is written, drawn anew at each reset: the arguments are the number of
the reset and the index (10_state.md R33, 93 U16; entry 6). -/
opaque Config.bufFill : Nat → Nat → Byte
/-- What a byte of the flash chip holds before the first erase or program that touches it (95 section 0; entry 8). -/
opaque Config.flashFill : Nat → Byte
/-- A stream of free bytes, read at the counter `draws` (20_memory.md R58, 93 U20; entry 12). -/
opaque Config.freeByte : Nat → Byte
/-- What the agents and the outside world do when the state lists no further move, read at the counter `draws`
(00_scope.md R10, 93 U22; entry 1). -/
opaque Config.anyMove : Nat → Move

/-- P_STALE_SCOPE (R7, 92 D24): which SPI reads return a stale first byte. -/
inductive StaleScope where
  | pageRead | allReads
  deriving DecidableEq, Repr

/-- Whether the device on the SPI bus keeps the reference contract of 20_memory.md R52 to R59, or answers any byte at
all (20_memory.md section 6: a claim about the engine alone leaves the MISO bytes unconstrained; entry 4). -/
inductive FlashContract where
  | reference | unconstrained
  deriving DecidableEq, Repr

/-- The parameters of R7 for which "a model may take another value": fixed for one machine, written by no step. -/
structure Params where
  /-- BUFMEM_BYTES -/
  bufBytes : Nat
  /-- P_STALE_SCOPE -/
  staleScope : StaleScope
  /-- P_ERASE_FITS_DELAY -/
  eraseFits : Bool
  /-- whether the reference contract of the flash chip is in force -/
  flash : FlashContract
  deriving DecidableEq, Repr

/-- The defaults of R7 (entry 4). -/
def Params.default : Params :=
  { bufBytes := 256, staleScope := .pageRead, eraseFits := true, flash := .reference }

end Sys2Proof
end

