-- ==== Sys2Proof/Machine/State.lean ====
section
/-!
DEFINITION. The machine's state: the engine's record of 10_state.md R12, the flash chip beside it (20_memory.md R52),
and the model's own bookkeeping; the reasons a step can stop; the state after reset (10_state.md R33).
-/

namespace Sys2Proof.Machine

/-- A protocol, and the engine that drives it (10_state.md R21). -/
inductive Engine where
  | i2c | spi
  deriving DecidableEq, Repr

/-- The direction of a transfer (10_state.md R22, R25). -/
inductive XferDir where
  | tx | rx
  deriving DecidableEq, Repr

/-- `i2c.phase` (10_state.md R23). -/
inductive I2cPhase where
  | idle | starting | transmitting | receiving | awaitingStop | ackFailed
  deriving DecidableEq, Repr

/-- `spi.phase` (10_state.md R25). -/
inductive SpiPhase where
  | idle | waitIdle | transferring
  deriving DecidableEq, Repr

/-- `spi.mem` (10_state.md R25): which memory `spi.cur` indexes. -/
inductive SpiMem where
  | buf | hdr | sr
  deriving DecidableEq, Repr

/-- The fault codes of 60_exceptions.md R133. Code 0 is "no fault"; 9 to 15 are reserved and never raised. -/
inductive FaultCode where
  | illegalCmd | busyCmd | modeMismatch | length | range | stopPending | busActive | hostAccess
  deriving DecidableEq, Repr

/-- The micro-actions of the flash sequencer (43_flash.md R116). -/
inductive Action where
  | csl
  | csh
  | txc (c : Byte) (k : Half)
  | txb (s n : Half)
  | rxb (s n : Half)
  | rxs
  | delay
  deriving DecidableEq, Repr

/-- The operand registers BUF, LEN and ADDR (10_state.md R15, R16, R17). -/
structure OperandRegs where
  buf : Half
  len : Half
  addr : FlashAddr
  deriving DecidableEq, Repr

/-- The live operation (10_state.md R20); `opc = none` is NONE. -/
structure LiveOp where
  opc : Option Opcode
  buf : Half
  len : Half
  addr : FlashAddr
  stop : Bool
  deriving DecidableEq, Repr

/-- The latched results (10_state.md R20). -/
structure Results where
  nack : Bool
  spib : Bool
  wip : Bool
  deriving DecidableEq, Repr

/-- The mode line and the two slots of the callback registry (10_state.md R21); `none` is NONE. -/
structure Arbiter where
  mode : Engine
  tx : Option Engine
  rx : Option Engine
  deriving DecidableEq, Repr

/-- The I2C engine (10_state.md R22, R23, R24). -/
structure I2cState where
  sa : BitVec 7
  dir : XferDir
  rem : Half
  cur : Half
  done : Bool
  ackOk : Bool
  sendStop : Bool
  txie : Bool
  rxie : Bool
  nackie : Bool
  phase : I2cPhase
  txifg : Bool
  txdata : Byte
  rxifg : Bool
  rxbuf : Byte
  nackifg : Bool
  nacked : Bool
  stopping : Bool
  finalRx : Bool
  held : Bool
  deriving DecidableEq, Repr

/-- The SPI engine and its datapath (10_state.md R25, R26). -/
structure SpiState where
  dir : XferDir
  rem : Half
  cur : Half
  done : Bool
  mem : SpiMem
  phase : SpiPhase
  txie : Bool
  rxie : Bool
  txbuf : Byte
  txFull : Bool
  shreg : Byte
  shifting : Bool
  rxbuf : Byte
  rxFull : Bool
  deriving DecidableEq, Repr

/-- The four bytes of `fl.hdr` (10_state.md R27). -/
structure Header where
  b0 : Byte
  b1 : Byte
  b2 : Byte
  b3 : Byte
  deriving DecidableEq, Repr

/-- The flash sequencer (10_state.md R27). -/
structure FlashSeq where
  prog : List Action
  pc : Nat
  started : Bool
  hdr : Header
  sr : Byte
  deriving DecidableEq, Repr

/-- A sparse memory: the bytes that were written, with their addresses, in one canonical form (`Memory.wf`). An
address that is not listed has no written byte (entry 7). -/
abbrev Memory := List Host.Cell

/-- The canonical form of a memory: addresses strictly rising, so that equal memories are equal lists. -/
abbrev Memory.wf (m : Memory) : Prop := m.Pairwise (fun x y => x.1 < y.1)

/-- The external flash chip (20_memory.md R52): its memory `M` as the bytes written since the erase of their sector, the
sectors erased so far (an unlisted byte of one reads 0xFF, of another its free byte: entry 8), the write-enable latch, the
write-in-progress bit, and the bytes received since chip select fell. -/
structure FlashChip where
  cells : Memory
  erased : List Nat
  wel : Bool
  wip : Bool
  frame : List Byte
  deriving DecidableEq, Repr

/-- The canonical form of the flash chip's memory: cells strictly rising and below 2^24; erased sectors strictly rising and
below 2^24 / SECTOR_BYTES; no cell of an erased sector holds 0xFF, which its unlisted bytes read as. -/
abbrev FlashChip.wf (d : FlashChip) : Prop :=
  Memory.wf d.cells ∧ (∀ c ∈ d.cells, c.1 < Config.flashBytes) ∧
  d.erased.Pairwise (· < ·) ∧ (∀ k ∈ d.erased, k < Config.flashBytes / Config.sectorBytes) ∧
  (∀ c ∈ d.cells, c.1 / Config.sectorBytes ∈ d.erased → c.2 ≠ 0xFF#8)

/-- The state. The first eleven fields are the record of 10_state.md R12; `dev` is the flash chip of 20_memory.md R52
(entry 10); the rest are the model's own (entries 1, 4, 6, 18). -/
structure State where
  reg : OperandRegs
  op : LiveOp
  res : Results
  arb : Arbiter
  i2c : I2cState
  spi : SpiState
  fl : FlashSeq
  /-- the chip-select line, true is high (deasserted), R27 -/
  cs : Bool
  /-- the written bytes of the buffer memory, 20_memory.md R36 -/
  bufmem : Memory
  fault : Bool
  /-- R28, R133 -/
  fcode : BitVec 4
  dev : FlashChip
  /-- the implementation's parameters, 00_scope.md R7; no step writes them -/
  par : Params
  /-- what the host's last read returned, 20_memory.md R37, R38 -/
  rdata : Option Word
  /-- how many resets have been taken: it selects the draw of `bufmem`, R33 -/
  epoch : Nat
  /-- the moves still to come, the next first -/
  moves : List Move
  /-- how many free values have been drawn -/
  draws : Nat
  deriving DecidableEq, Repr

/-- Why the machine stops with a fault. Each is an index outside the range for which 20_memory.md R36 defines its
primitive: no run from reset reaches one (60_exceptions.md R139). Safe: the spec gives such an access no effect. -/
inductive Fault where
  /-- raised by a handler whose cursor is not below BUFMEM_BYTES (R36); safe -/
  | bufIndex
  /-- raised by a handler whose cursor into `fl.hdr` is above 3 (R36); safe -/
  | hdrIndex
  /-- raised by a handler whose cursor into `fl.sr` is not 0 (R36); safe -/
  | srIndex
  deriving DecidableEq, Repr

/-- Why the model refuses a step. -/
inductive Refusal where
  /-- no meaning yet for the instruction: raised by `exec` alone, in no arm at present; safe -/
  | notModelled (mnemonic : String)
  /-- raised by a host access above the buffer window: "outside the engine and is not specified here" (20_memory.md
  R37, 93 U15); safe -/
  | outsideEngine
  deriving DecidableEq, Repr

/-- The I2C engine after reset (R33). -/
def I2cState.reset : I2cState :=
  { sa := 0, dir := .tx, rem := 0, cur := 0, done := false, ackOk := false, sendStop := false, txie := false,
    rxie := false, nackie := false, phase := .idle, txifg := false, txdata := 0, rxifg := false, rxbuf := 0,
    nackifg := false, nacked := false, stopping := false, finalRx := false, held := false }

/-- The SPI engine after reset (R33). -/
def SpiState.reset : SpiState :=
  { dir := .tx, rem := 0, cur := 0, done := false, mem := .buf, phase := .idle, txie := false, rxie := false,
    txbuf := 0, txFull := false, shreg := 0, shifting := false, rxbuf := 0, rxFull := false }

/-- The flash sequencer after reset (R33). -/
def FlashSeq.reset : FlashSeq :=
  { prog := [], pc := 0, started := false, hdr := { b0 := 0, b1 := 0, b2 := 0, b3 := 0 }, sr := 0 }

/-- The flash chip at the start state `RST` (95_test_vectors.md section 0; entries 8, 9, DESIGN CHOICE). -/
def FlashChip.initial : FlashChip := { cells := [], erased := [], wel := false, wip := false, frame := [] }

/-- The machine right after reset: the table of 10_state.md R33, with the flash chip and the model's own fields at the
values of entries 1, 4, 6, 8, 9 and 18. -/
def State.reset : State :=
  { reg := { buf := 0, len := 0, addr := 0 }
    op := { opc := none, buf := 0, len := 0, addr := 0, stop := false }
    res := { nack := false, spib := false, wip := false }
    arb := { mode := .i2c, tx := none, rx := none }
    i2c := I2cState.reset
    spi := SpiState.reset
    fl := FlashSeq.reset
    cs := true
    bufmem := []
    fault := false
    fcode := 0
    dev := FlashChip.initial
    par := Params.default
    rdata := none
    epoch := 0
    moves := []
    draws := 0 }

end Sys2Proof.Machine
end

