-- ==== Sys2Proof/Machine/Operands.lean ====
section
/-!
DEFINITION. Operand forms: the fields of ADDR a command uses (30_encoding.md R61), the three bytes of a flash address on
the wire (R61, 20_memory.md R40), the address and payload of a frame (R52, R55, R57, R58).
-/

namespace Sys2Proof.Machine

/-- The slave address, `ADDR[6:0]` (R61). -/
def slaveAddr (a : FlashAddr) : BitVec 7 := a.extractLsb' 0 7

/-- The owner code, `ADDR[1:0]` (R61). -/
def ownerCode (a : FlashAddr) : BitVec 2 := a.extractLsb' 0 2

/-- What an owner code stands for: 0 NONE, 1 I2C, 2 SPI, 3 illegal (R61). -/
def ownerOf? (c : BitVec 2) : Option (Option Engine) :=
  if c = 0 then some none else if c = 1 then some (some .i2c) else if c = 2 then some (some .spi) else none

/-- The code of a slot's owner in STATUS (10_state.md R18). -/
def slotCode (o : Option Engine) : BitVec 2 :=
  match o with
  | none => 0
  | some .i2c => 1
  | some .spi => 2

/-- `A2 = A[23:16]`, the address byte sent first (R61). -/
def addrByte2 (a : FlashAddr) : Byte := a.extractLsb' 16 8
/-- `A1 = A[15:8]` (R61). -/
def addrByte1 (a : FlashAddr) : Byte := a.extractLsb' 8 8
/-- `A0 = A[7:0]`, the address byte sent last (R61). -/
def addrByte0 (a : FlashAddr) : Byte := a.extractLsb' 0 8

/-- `frame[1] ++ frame[2] ++ frame[3]` (20_memory.md R55): the address a frame carries, from the bytes after its
command byte; none while fewer than three have come. -/
def frameAddr? (tail : List Byte) : Option FlashAddr :=
  match tail with
  | a2 :: a1 :: a0 :: _ => some (a2 ++ a1 ++ a0)
  | _ => none

/-- `frame[4..]`: the payload of a page program (20_memory.md R58). -/
def framePayload (tail : List Byte) : List Byte := tail.drop 3

/-- `length(frame)` when the byte after `tail` is exchanged (20_memory.md R52): the index `k` of that byte. -/
def frameIndex (tail : List Byte) : Nat := tail.length + 1

/-- Bit `i` of a byte set to `b`, the others kept. -/
def putBit (v : Byte) (i : Nat) (b : Bool) : Byte :=
  (v &&& ~~~((1 : Byte) <<< i)) ||| (if b then (1 : Byte) <<< i else 0)

/-- Whether the buffer `[b, b + n)` lies in `bufmem`: `b + n <= BUFMEM_BYTES`, computed exactly (60_exceptions.md R134). -/
def bufferFits (b : Half) (n : Nat) (size : Nat) : Bool := decide (b.toNat + n ≤ size)

end Sys2Proof.Machine
end

