-- ==== Sys2Proof/Machine/Flags.lean ====
section
/-!
DEFINITION. Every flag the spec computes from state: the SPI busy flag (10_state.md R26), bus ownership (40_arbiter.md
R82), the pending sources (R76), and the words the host reads (10_state.md R14 to R19).
-/

namespace Sys2Proof.Machine

/-- `spi_busy = spi.tx_full or spi.shifting` (10_state.md R26). -/
def spiBusy (s : State) : Bool := s.spi.txFull || s.spi.shifting

/-- `Owns(E)`: the mode line and both slots name the engine (40_arbiter.md R82, 60_exceptions.md R134). -/
def owns (e : Engine) (s : State) : Bool :=
  decide (s.arb.mode = e) && decide (s.arb.tx = some e) && decide (s.arb.rx = some e)

/-- The status a finished `I2C_WRITE` returns: 0 if no NACK was observed (41_i2c.md R90, R91). -/
def writeStatus (s : State) : Bool := !s.i2c.ackOk

/-- The engine of an interrupt source (40_arbiter.md R76). -/
def sourceEngine (src : Source) : Engine :=
  match src with
  | .i2cTx => .i2c
  | .i2cRx => .i2c
  | .i2cNack => .i2c
  | .spiTx => .spi
  | .spiRx => .spi

/-- A source is pending and enabled (40_arbiter.md R76). -/
def sourcePending (src : Source) (s : State) : Bool :=
  match src with
  | .i2cTx => s.i2c.txifg && s.i2c.txie
  | .i2cRx => s.i2c.rxifg && s.i2c.rxie
  | .i2cNack => s.i2c.nackifg && s.i2c.nackie
  | .spiTx => !s.spi.txFull && s.spi.txie
  | .spiRx => s.spi.rxFull && s.spi.rxie

/-- The slot of a source's vector: TX for the two transmit-ready sources, RX for the rest (40_arbiter.md R76). -/
def sourceSlot (src : Source) (s : State) : Option Engine :=
  match src with
  | .i2cTx => s.arb.tx
  | .i2cRx => s.arb.rx
  | .i2cNack => s.arb.rx
  | .spiTx => s.arb.tx
  | .spiRx => s.arb.rx

/-- A one-bit field of a word. -/
def bitAt (b : Bool) (i : Nat) : Word := (BitVec.ofBool b).setWidth 32 <<< i

/-- A field of a word, its lowest bit at `lo`. -/
def fieldAt {w : Nat} (v : BitVec w) (lo : Nat) : Word := v.setWidth 32 <<< lo

/-- STATUS, bit by bit as the table of 10_state.md R18 lists them. -/
def statusWord (s : State) : Word :=
  bitAt s.op.opc.isSome 0 |||
  bitAt s.res.nack 1 |||
  bitAt s.res.spib 2 |||
  bitAt s.res.wip 3 |||
  bitAt (spiBusy s) 4 |||
  bitAt s.i2c.stopping 5 |||
  bitAt (decide (s.arb.mode = .spi)) 6 |||
  bitAt s.cs 7 |||
  fieldAt (slotCode s.arb.tx) 8 |||
  fieldAt (slotCode s.arb.rx) 10 |||
  bitAt s.i2c.held 12 |||
  bitAt s.fault 16 |||
  fieldAt s.fcode 20

/-- BUF, LEN, ADDR and SLAVE as the host reads them: the implemented bits, zeros above (10_state.md R15, R16, R17,
R19). -/
def bufWord (s : State) : Word := s.reg.buf.setWidth 32
/-- LEN (R16). -/
def lenWord (s : State) : Word := s.reg.len.setWidth 32
/-- ADDR (R17). -/
def addrWord (s : State) : Word := s.reg.addr.setWidth 32
/-- SLAVE (R19). -/
def slaveWord (s : State) : Word := s.i2c.sa.setWidth 32

end Sys2Proof.Machine
end

