-- ==== Sys2Proof/Machine/Ops.lean ====
section
/-!
DEFINITION. The shared operations: the sparse memories, the buffer-memory primitives of 20_memory.md R36, the flash
chip's memory (R52, R57, R58), raising an engine fault (60_exceptions.md R132, R133), and issuing a command
(30_encoding.md R64, 60_exceptions.md R134).
-/

namespace Sys2Proof.Machine

/-! ## Sparse memories -/

/-- The byte listed at an address. -/
def memGet? (m : Memory) (a : Nat) : Option Byte :=
  match m with
  | [] => none
  | (b, v) :: r => if b = a then some v else memGet? r a

/-- List a byte at an address, keeping the canonical form. -/
def memPut (m : Memory) (a : Nat) (v : Byte) : Memory :=
  match m with
  | [] => [(a, v)]
  | (b, w) :: r =>
    if a < b then (a, v) :: (b, w) :: r
    else if a = b then (a, v) :: r
    else (b, w) :: memPut r a v

/-- Take an address off the list. -/
def memRemove (m : Memory) (a : Nat) : Memory := m.filter (fun c => decide (c.1 ≠ a))

/-! ## The buffer memory (20_memory.md R36) -/

/-- `bufmem[i]`: the written byte, or, where nothing has been written since the last reset, the byte drawn there
(10_state.md R33; entry 6). -/
def bufByte (s : State) (i : Nat) : Byte := (memGet? s.bufmem i).getD (Config.bufFill s.epoch i)

/-- `bufmem[i] <- v`. -/
def setBufByte (s : State) (i : Nat) (v : Byte) : State := { s with bufmem := memPut s.bufmem i v }

/-- `MemRead(i, 1)`, defined only for `i < BUFMEM_BYTES` (R36). -/
def memRead (i : Nat) (s : State) : Except Fault Byte :=
  if i < s.par.bufBytes then .ok (bufByte s i) else .error .bufIndex

/-- `MemWrite(i, 1, v)`, defined only for `i < BUFMEM_BYTES` (R36). -/
def memWrite (i : Nat) (v : Byte) (s : State) : Except Fault State :=
  if i < s.par.bufBytes then .ok (setBufByte s i v) else .error .bufIndex

/-- `fl.hdr[i]`, for `i <= 3` (10_state.md R27). -/
def hdrGet? (h : Header) (i : Nat) : Option Byte :=
  match i with
  | 0 => some h.b0
  | 1 => some h.b1
  | 2 => some h.b2
  | 3 => some h.b3
  | _ => none

/-- `fl.hdr[i] <- v`, for `i <= 3`. -/
def hdrSet? (h : Header) (i : Nat) (v : Byte) : Option Header :=
  match i with
  | 0 => some { h with b0 := v }
  | 1 => some { h with b1 := v }
  | 2 => some { h with b2 := v }
  | 3 => some { h with b3 := v }
  | _ => none

/-- `SrcRead(m, i)` (R36). -/
def srcRead (m : SpiMem) (i : Nat) (s : State) : Except Fault Byte :=
  match m with
  | .buf => memRead i s
  | .hdr =>
    match hdrGet? s.fl.hdr i with
    | some v => .ok v
    | none => .error .hdrIndex
  | .sr => if i = 0 then .ok s.fl.sr else .error .srIndex

/-- `DstWrite(m, i, v)` (R36). -/
def dstWrite (m : SpiMem) (i : Nat) (v : Byte) (s : State) : Except Fault State :=
  match m with
  | .buf => memWrite i v s
  | .hdr =>
    match hdrSet? s.fl.hdr i v with
    | some h => .ok { s with fl := { s.fl with hdr := h } }
    | none => .error .hdrIndex
  | .sr => if i = 0 then .ok { s with fl := { s.fl with sr := v } } else .error .srIndex

/-! ## The flash chip's memory (20_memory.md R52, R57, R58) -/

/-- The sector an address lies in. -/
def sectorOf (a : Nat) : Nat := a / Config.sectorBytes

/-- What an address that is not listed reads as: 0xFF in a sector that was erased (R57), its free byte in another
(entry 8). -/
def flashUnlisted (d : FlashChip) (a : Nat) : Byte :=
  if sectorOf a ∈ d.erased then 0xFF else Config.flashFill a

/-- `M[a]`. -/
def flashByte (d : FlashChip) (a : Nat) : Byte := (memGet? d.cells a).getD (flashUnlisted d a)

/-- `M[a] <- v`: writing the erased value into an erased sector takes the address off the list. -/
def flashPut (d : FlashChip) (a : Nat) (v : Byte) : FlashChip :=
  if sectorOf a ∈ d.erased ∧ v = 0xFF then { d with cells := memRemove d.cells a }
  else { d with cells := memPut d.cells a v }

/-- A sector number put into the strictly rising list of erased sectors. -/
def insertSector (l : List Nat) (k : Nat) : List Nat :=
  match l with
  | [] => [k]
  | j :: r => if k < j then k :: j :: r else if k = j then j :: r else j :: insertSector r k

/-- Every byte of sector `k` becomes 0xFF (R57). -/
def flashEraseSector (d : FlashChip) (k : Nat) : FlashChip :=
  { d with cells := d.cells.filter (fun c => decide (sectorOf c.1 ≠ k)), erased := insertSector d.erased k }

/-- The address of payload byte `j` of a page program at `a`: it wraps within the page (R58). -/
def pageAddr (a j : Nat) : Nat :=
  a - a % Config.pageBytes + (a % Config.pageBytes + j) % Config.pageBytes

/-- `M[a_j] <- M[a_j] AND d[j]` for the payload bytes from the `j`-th on (R58). -/
def programBytes (d : FlashChip) (a j : Nat) (payload : List Byte) : FlashChip :=
  match payload with
  | [] => d
  | v :: r => programBytes (flashPut d (pageAddr a j) (flashByte d (pageAddr a j) &&& v)) a (j + 1) r

/-- `n` bytes from address `a` on become free bytes, drawn from the stream at `k`, `k + 1`, … (R58, 93 U20; entry 12). -/
def scrambleBytes (d : FlashChip) (a k n : Nat) : FlashChip :=
  match n with
  | 0 => d
  | m + 1 => scrambleBytes (flashPut d a (Config.freeByte k)) (a + 1) (k + 1) m

/-! ## Engine faults (60_exceptions.md R132, R133) -/

/-- The number of a fault code (R133). -/
def faultNumber (f : FaultCode) : BitVec 4 :=
  match f with
  | .illegalCmd => 1
  | .busyCmd => 2
  | .modeMismatch => 3
  | .length => 4
  | .range => 5
  | .stopPending => 6
  | .busActive => 7
  | .hostAccess => 8

/-- `raise Fault(f)` in the state before the faulting step: the first fault is recorded and kept, and every other write
of the step is discarded (R132, R152). -/
def raiseFault (f : FaultCode) (s : State) : State :=
  if s.fault then s else { s with fault := true, fcode := faultNumber f }

/-! ## Issuing a command (30_encoding.md R64) -/

/-- `op <- { opc: o, buf: reg.buf, len: reg.len, addr: reg.addr, stop: s }` (R64). -/
def latchOp (o : Opcode) (stop : Bool) (s : State) : State :=
  { s with op := { opc := some o, buf := s.reg.buf, len := s.reg.len, addr := s.reg.addr, stop := stop } }

/-- `op.opc <- NONE`; the latched operands stay (R64; entry 24). -/
def finishOp (s : State) : State := { s with op := { s.op with opc := none } }

/-- The commands that need I2C to own the bus (60_exceptions.md R134). -/
def needsI2c (o : Opcode) : Bool := decide (o ∈ [Opcode.i2cWrite, .i2cRead])

/-- The commands that need SPI to own the bus (R134). -/
def needsSpi (o : Opcode) : Bool :=
  decide (o ∈ [Opcode.spiWrite, .spiRead, .spiCsLow, .spiCsHigh, .flashReadId, .flashRead, .flashWrite, .flashBusy])

/-- The init commands (R134). -/
def isInit (o : Opcode) : Bool := decide (o ∈ [Opcode.i2cInit, .spiInit, .flashInit])

/-- The reads whose length may not be 0 (R134). -/
def readsLength (o : Opcode) : Bool := decide (o ∈ [Opcode.i2cRead, .spiRead, .flashRead])

/-- The transfers whose buffer is `[b, b + n)` (R134). -/
def usesBuffer (o : Opcode) : Bool :=
  decide (o ∈ [Opcode.i2cWrite, .i2cRead, .spiWrite, .spiRead, .flashRead, .flashWrite])

/-- `IssueCheck(o)`, in the order of R134. -/
def issueCheck (o : Opcode) (s : State) : Option FaultCode :=
  if needsI2c o && !owns .i2c s then some .modeMismatch
  else if needsSpi o && !owns .spi s then some .modeMismatch
  else if isInit o && (s.i2c.stopping || spiBusy s) then some .busActive
  else if needsI2c o && s.i2c.stopping then some .stopPending
  else if readsLength o && decide (s.reg.len = 0) then some .length
  else if usesBuffer o && !bufferFits s.reg.buf s.reg.len.toNat s.par.bufBytes then some .range
  else if decide (o = .flashReadId) && !bufferFits s.reg.buf 3 s.par.bufBytes then some .range
  else none

/-- A host write of a legal command word to `CMD` (R64): nothing while frozen (60_exceptions.md R143); BUSY_CMD while an
operation is live; the fault `IssueCheck` names; else the operands are latched and the command's issue effect is
performed, in the one step. An effect that raises a fault (R74, owner code 3) leaves everything else as it was. -/
def issue (o : Opcode) (stop : Bool) (effect : State → Except FaultCode State) (s : State) :
    Host.Outcome State Fault Refusal :=
  if s.fault then .next s
  else if s.op.opc.isSome then .next (raiseFault .busyCmd s)
  else
    match issueCheck o s with
    | some f => .next (raiseFault f s)
    | none =>
      match effect (latchOp o stop s) with
      | .error f => .next (raiseFault f s)
      | .ok t => .next t

/-! ## Starting an SPI transfer (42_spi.md R104) -/

/-- `StartSpi(d, m, s, n)` (R104), shared by `SPI_WRITE`, `SPI_READ` and the flash sequencer. -/
def startSpi (d : XferDir) (m : SpiMem) (start n : Half) (s : State) : State :=
  { s with spi := { s.spi with done := false, rem := n, cur := start, dir := d, mem := m, phase := .waitIdle } }

end Sys2Proof.Machine
end

