-- ==== Sys2Proof/Machine/Arbiter.lean ====
section
/-!
DEFINITION. The mode-select arbiter: `BIND_TX` and `BIND_RX` (40_arbiter.md R74, R75) and taking ownership of the bus
(R81).
-/

namespace Sys2Proof.Machine

/-- An engine's init takes the mode line and both slots (R71, R81). -/
def takeBus (e : Engine) (s : State) : State := { s with arb := { mode := e, tx := some e, rx := some e } }

/-- `arb.tx <- (NONE, I2C, SPI)[c]`, `c = op.addr[1:0]`; code 3 is illegal (R74). -/
def bindTx (s : State) : Except FaultCode State :=
  match ownerOf? (ownerCode s.op.addr) with
  | none => .error .illegalCmd
  | some e => .ok (finishOp { s with arb := { s.arb with tx := e } })

/-- `arb.rx <- (NONE, I2C, SPI)[c]` (R75). -/
def bindRx (s : State) : Except FaultCode State :=
  match ownerOf? (ownerCode s.op.addr) with
  | none => .error .illegalCmd
  | some e => .ok (finishOp { s with arb := { s.arb with rx := e } })

/-- BIND_TX (R74). -/
def execBindTx (s : State) : Host.Outcome State Fault Refusal := issue .bindTx false bindTx s

/-- BIND_RX (R75). -/
def execBindRx (s : State) : Host.Outcome State Fault Refusal := issue .bindRx false bindRx s

end Sys2Proof.Machine
end

