-- ==== Sys2Proof/WellFormed.lean ====
section
/-!
DEFINITION. Which terms of `Instr` are instructions the spec lists: every command word is one; a frame is one when its
bytes after the command byte have the shape 30_encoding.md R66 gives it. A read frame may have one dummy byte fewer,
because R66 says the kick byte and the first dummy may merge (P_STALE_SCOPE = ALL_READS; entry 14, DEDUCED).
-/

namespace Sys2Proof

/-- Every byte is the dummy 0x00 (R66: "bytes 0x00 (kick + dummies)"). -/
def zeroBytes (l : List Byte) : Bool := l.all (· == 0)

/-- Rule R66, frame by frame. -/
def Instr.wellFormed (i : Instr) : Bool :=
  match i with
  | .bindTx | .bindRx | .i2cInit | .i2cWrite _ | .i2cRead => true
  | .spiInit | .spiWrite | .spiRead | .spiBusy | .spiCsLow | .spiCsHigh => true
  | .flashInit | .flashReadId | .flashRead | .flashWrite | .flashBusy => true
  | .frameReadId t => zeroBytes t && (t.length == 3 || t.length == 4)
  | .frameRead t => zeroBytes (t.drop 3) && decide (4 ≤ t.length)
  | .frameWriteEnable t => t.length == 0
  | .frameSectorErase t => t.length == 3
  | .framePageProgram t => decide (3 ≤ t.length)
  | .frameReadStatus t => zeroBytes t && (t.length == 1 || t.length == 2)

end Sys2Proof
end

