-- ==== Sys2Proof/Decode.lean ====
section
/-!
DEFINITION. The decoder and, after it, the encoder, both from 30_encoding.md: the opcode map R63, the illegal words R65
and the flash command bytes R66.
-/

namespace Sys2Proof

/-- Why a code is no instruction (R65, R66). -/
inductive DecodeError where
  /-- `CMD[7:0]` is not in the map of R63 -/
  | unknownOpcode (o : Byte)
  /-- `CMD[31:9]` is not zero -/
  | reservedBits (r : BitVec 23)
  /-- `CMD[8]` is 1 with an opcode other than I2C_WRITE -/
  | stopNotAllowed (o : Byte)
  /-- a chip-select frame in which no byte was clocked -/
  | emptyFrame
  /-- a frame whose first byte is none of the six of R66 -/
  | unknownFrameCommand (b : Byte)
  deriving DecidableEq, Repr

/-- The opcode map, R63. -/
def Opcode.code (p : Opcode) : Byte :=
  match p with
  | .bindTx => 0x01
  | .bindRx => 0x02
  | .i2cInit => 0x10
  | .i2cWrite => 0x11
  | .i2cRead => 0x12
  | .spiInit => 0x20
  | .spiWrite => 0x21
  | .spiRead => 0x22
  | .spiBusy => 0x23
  | .spiCsLow => 0x24
  | .spiCsHigh => 0x25
  | .flashInit => 0x30
  | .flashReadId => 0x31
  | .flashRead => 0x32
  | .flashWrite => 0x33
  | .flashBusy => 0x34

/-- Every opcode of R63, in the map's order. -/
def Opcode.all : List Opcode :=
  [.bindTx, .bindRx, .i2cInit, .i2cWrite, .i2cRead, .spiInit, .spiWrite, .spiRead, .spiBusy, .spiCsLow, .spiCsHigh,
   .flashInit, .flashReadId, .flashRead, .flashWrite, .flashBusy]

/-- The opcode a byte names; every other value is illegal (R63, R65). -/
def opcodeOf? (b : Byte) : Option Opcode := Opcode.all.find? (fun p => p.code == b)

/-- The flash command bytes, R66. -/
def FrameCmd.code (c : FrameCmd) : Byte :=
  match c with
  | .readId => 0x9F
  | .read => 0x03
  | .writeEnable => 0x06
  | .sectorErase => 0xD8
  | .pageProgram => 0x02
  | .readStatus => 0x05

/-- The six commands of R66, in the table's order. -/
def FrameCmd.all : List FrameCmd := [.readId, .read, .writeEnable, .sectorErase, .pageProgram, .readStatus]

/-- The flash command a byte names (R66). -/
def frameCmdOf? (b : Byte) : Option FrameCmd := FrameCmd.all.find? (fun c => c.code == b)

/-- The command of an opcode and a STOP bit; STOP belongs to I2C_WRITE alone (R60, R65). -/
def Opcode.instr? (p : Opcode) (stop : Bool) : Option Instr :=
  match p, stop with
  | .i2cWrite, s => some (.i2cWrite s)
  | _, true => none
  | .bindTx, false => some .bindTx
  | .bindRx, false => some .bindRx
  | .i2cInit, false => some .i2cInit
  | .i2cRead, false => some .i2cRead
  | .spiInit, false => some .spiInit
  | .spiWrite, false => some .spiWrite
  | .spiRead, false => some .spiRead
  | .spiBusy, false => some .spiBusy
  | .spiCsLow, false => some .spiCsLow
  | .spiCsHigh, false => some .spiCsHigh
  | .flashInit, false => some .flashInit
  | .flashReadId, false => some .flashReadId
  | .flashRead, false => some .flashRead
  | .flashWrite, false => some .flashWrite
  | .flashBusy, false => some .flashBusy

/-- The frame instruction of a command byte and the bytes after it (R66). -/
def FrameCmd.instr (c : FrameCmd) (tail : List Byte) : Instr :=
  match c with
  | .readId => .frameReadId tail
  | .read => .frameRead tail
  | .writeEnable => .frameWriteEnable tail
  | .sectorErase => .frameSectorErase tail
  | .pageProgram => .framePageProgram tail
  | .readStatus => .frameReadStatus tail

/-- `CMD[7:0]` (R60). -/
def cmdOpcode (w : Word) : Byte := w.extractLsb' 0 8
/-- `CMD[8]` (R60). -/
def cmdStop (w : Word) : Bool := w.getLsbD 8
/-- `CMD[31:9]` (R60). -/
def cmdReserved (w : Word) : BitVec 23 := w.extractLsb' 9 23

/-- A word written to `CMD` (R60, R63, R65). -/
def decodeCmd (w : Word) : Except DecodeError Instr :=
  match opcodeOf? (cmdOpcode w) with
  | none => .error (.unknownOpcode (cmdOpcode w))
  | some p =>
    if cmdReserved w ≠ 0 then .error (.reservedBits (cmdReserved w))
    else match p.instr? (cmdStop w) with
      | none => .error (.stopNotAllowed (cmdOpcode w))
      | some i => .ok i

/-- The command and the further bytes of a chip-select frame (R60, R66). -/
def frameParts (bytes : List Byte) : Except DecodeError (FrameCmd × List Byte) :=
  match bytes with
  | [] => .error .emptyFrame
  | b :: tail =>
    match frameCmdOf? b with
    | none => .error (.unknownFrameCommand b)
    | some c => .ok (c, tail)

/-- The instruction of a chip-select frame. -/
def decodeFrame (bytes : List Byte) : Except DecodeError Instr :=
  match frameParts bytes with
  | .error e => .error e
  | .ok (c, tail) => .ok (c.instr tail)

/-- The instruction of a code of either format (R60), or why there is none. -/
def decode (c : Code) : Except DecodeError Instr :=
  match c with
  | .cmd32 w => decodeCmd w
  | .spiFrame bytes => decodeFrame bytes

/-- How many operand bytes of zeros the shortest frame of a command has, with P_STALE_SCOPE = PAGE_READ (R66): the
address bytes, then the kick and the dummies of a read of one byte (of three for the identification). -/
def FrameCmd.shortestTail (c : FrameCmd) : Nat :=
  match c with
  | .readId => 4
  | .read => 5
  | .writeEnable => 0
  | .sectorErase => 3
  | .pageProgram => 3
  | .readStatus => 2

/-- The bits of an instruction as spec/opcode_table.json numbers them, laid out where they arrive: a row of 8 bits is
the command byte of a frame, whose operand bytes are zeros; a row of more bits is a command word (entry 27). -/
def tableCode (nbits w : Nat) : Code :=
  if nbits ≤ 8 then
    let b : Byte := BitVec.ofNat 8 w
    match frameCmdOf? b with
    | some c => .spiFrame (b :: List.replicate c.shortestTail 0)
    | none => .spiFrame [b]
  else .cmd32 (BitVec.ofNat 32 w)

/-- The instruction the decoder reads from a row's bits. -/
def decodeTableWord (nbits w : Nat) : Option Instr := (decode (tableCode nbits w)).toOption

/-- A command word: OPC in bits 7:0, STOP in bit 8, zeros above (R60). -/
def commandWord (p : Opcode) (stop : Bool) : Word := (0 : BitVec 23) ++ BitVec.ofBool stop ++ p.code

/-- The code of an instruction: R63 for a command, R66 for a frame. -/
def encode (i : Instr) : Code :=
  match i with
  | .bindTx => .cmd32 (commandWord .bindTx false)
  | .bindRx => .cmd32 (commandWord .bindRx false)
  | .i2cInit => .cmd32 (commandWord .i2cInit false)
  | .i2cWrite s => .cmd32 (commandWord .i2cWrite s)
  | .i2cRead => .cmd32 (commandWord .i2cRead false)
  | .spiInit => .cmd32 (commandWord .spiInit false)
  | .spiWrite => .cmd32 (commandWord .spiWrite false)
  | .spiRead => .cmd32 (commandWord .spiRead false)
  | .spiBusy => .cmd32 (commandWord .spiBusy false)
  | .spiCsLow => .cmd32 (commandWord .spiCsLow false)
  | .spiCsHigh => .cmd32 (commandWord .spiCsHigh false)
  | .flashInit => .cmd32 (commandWord .flashInit false)
  | .flashReadId => .cmd32 (commandWord .flashReadId false)
  | .flashRead => .cmd32 (commandWord .flashRead false)
  | .flashWrite => .cmd32 (commandWord .flashWrite false)
  | .flashBusy => .cmd32 (commandWord .flashBusy false)
  | .frameReadId t => .spiFrame (FrameCmd.readId.code :: t)
  | .frameRead t => .spiFrame (FrameCmd.read.code :: t)
  | .frameWriteEnable t => .spiFrame (FrameCmd.writeEnable.code :: t)
  | .frameSectorErase t => .spiFrame (FrameCmd.sectorErase.code :: t)
  | .framePageProgram t => .spiFrame (FrameCmd.pageProgram.code :: t)
  | .frameReadStatus t => .spiFrame (FrameCmd.readStatus.code :: t)

end Sys2Proof
end

