-- ==== Sys2Proof/Machine/Frames.lean ====
section
/-!
DEFINITION. The flash chip (20_memory.md R52 to R58): the meanings of the six wire frames, and what the chip does when a
byte is clocked and when chip select moves. A frame instruction is executed in two places (entry 13): while chip
select is low, for each byte clocked after the command byte, and once when chip select has risen.
-/

namespace Sys2Proof.Machine

/-- With chip select low, the byte after the frame is exchanged: the chip takes the MOSI byte `spi.shreg` and the engine
holds the MISO byte in `spi.rxbuf` (R52). -/
def exchangeByte (miso : Byte) (s : State) : State :=
  { s with
    spi := { s.spi with rxbuf := miso }
    dev := { s.dev with frame := s.dev.frame ++ [s.spi.shreg] } }

/-- `frame <- []` (R52). -/
def clearFrame (s : State) : State := { s with dev := { s.dev with frame := [] } }

/-- A frame's two phases: chip select low, the next byte; chip select high, the act on the whole frame (R52). -/
def respond (miso : Byte) (act : State → State) (s : State) : State :=
  if s.cs then clearFrame (act s) else exchangeByte miso s

/-- The MISO byte of a frame the chip answers only while it is not busy: any value (the line's) while `wip = 1` (R52). -/
def unlessBusy (answer : Byte) (s : State) : Byte := if s.dev.wip then s.spi.rxbuf else answer

/-- The bytes of FLASH_ID at `k` in 1..3, any value past the third (R53). -/
def readIdByte (k : Nat) (s : State) : Byte :=
  if 1 ≤ k ∧ k ≤ 3 then Config.flashId (k - 1) else s.spi.rxbuf

/-- The MISO byte of a page read at `k`: any value in 1..3; then, with P_STALE_SCOPE = PAGE_READ, one stale byte and
`M[(A + k - 5) mod 2^24]`, with ALL_READS `M[(A + k - 4) mod 2^24]` (R55). -/
def pageReadByte (tail : List Byte) (k : Nat) (s : State) : Byte :=
  match frameAddr? tail with
  | none => s.spi.rxbuf
  | some a =>
    match s.par.staleScope with
    | .pageRead =>
      if 5 ≤ k then flashByte s.dev ((a.toNat + k - 5) % Config.flashBytes) else s.spi.rxbuf
    | .allReads =>
      if 4 ≤ k then flashByte s.dev ((a.toNat + k - 4) % Config.flashBytes) else s.spi.rxbuf

/-- The status byte: `wip` and `wel` at their bits, any value at the others (R54). -/
def statusByte (s : State) : Byte :=
  putBit (putBit s.spi.rxbuf Config.wipBit s.dev.wip) Config.welBit s.dev.wel

/-- Write enable, when chip select rises on `[0x06]` with `wip = 0` (R56). -/
def enableWrites (tail : List Byte) (s : State) : State :=
  if tail = [] ∧ s.dev.wip = false then { s with dev := { s.dev with wel := true } } else s

/-- Sector erase, when chip select rises on exactly four bytes with `wel = 1` and `wip = 0` (R57). -/
def eraseSector (tail : List Byte) (s : State) : State :=
  match frameAddr? tail with
  | none => s
  | some a =>
    if tail.length = 3 ∧ s.dev.wel = true ∧ s.dev.wip = false then
      { s with dev := { flashEraseSector s.dev (sectorOf a.toNat) with wel := false, wip := true } }
    else s

/-- Page program, when chip select rises on at least four bytes with `wel = 1` and `wip = 0`: the payload is ANDed into the
page, or, when it is longer than a page, every byte of the page becomes any value (R58; entry 12). -/
def programPage (tail : List Byte) (s : State) : State :=
  match frameAddr? tail with
  | none => s
  | some a =>
    if s.dev.wel = true ∧ s.dev.wip = false then
      if (framePayload tail).length ≤ Config.pageBytes then
        { s with dev := { programBytes s.dev a.toNat 0 (framePayload tail) with wel := false, wip := true } }
      else
        { s with
          dev := { scrambleBytes s.dev (a.toNat - a.toNat % Config.pageBytes) s.draws Config.pageBytes with
                   wel := false, wip := true }
          draws := s.draws + Config.pageBytes }
    else s

/-! ## The six frames -/

/-- Read identification, 0x9F (R53). -/
def frameReadId (tail : List Byte) (s : State) : State :=
  respond (unlessBusy (readIdByte (frameIndex tail) s) s) id s

/-- Page read, 0x03 (R55). -/
def frameRead (tail : List Byte) (s : State) : State :=
  respond (unlessBusy (pageReadByte tail (frameIndex tail) s) s) id s

/-- Write enable, 0x06 (R56). -/
def frameWriteEnable (tail : List Byte) (s : State) : State := respond s.spi.rxbuf (enableWrites tail) s

/-- Sector erase, 0xD8 (R57): the MISO bytes are any value. -/
def frameSectorErase (tail : List Byte) (s : State) : State := respond s.spi.rxbuf (eraseSector tail) s

/-- Page program, 0x02 (R58): the MISO bytes are any value. -/
def framePageProgram (tail : List Byte) (s : State) : State := respond s.spi.rxbuf (programPage tail) s

/-- Read status register, 0x05 (R54): answered while the chip is busy too (R52). -/
def frameReadStatus (_tail : List Byte) (s : State) : State := respond (statusByte s) id s

/-- FRAME_READ_ID (R53). -/
def execFrameReadId (tail : List Byte) (s : State) : Host.Outcome State Fault Refusal := .next (frameReadId tail s)
/-- FRAME_READ (R55). -/
def execFrameRead (tail : List Byte) (s : State) : Host.Outcome State Fault Refusal := .next (frameRead tail s)
/-- FRAME_WRITE_ENABLE (R56). -/
def execFrameWriteEnable (tail : List Byte) (s : State) : Host.Outcome State Fault Refusal :=
  .next (frameWriteEnable tail s)
/-- FRAME_SECTOR_ERASE (R57). -/
def execFrameSectorErase (tail : List Byte) (s : State) : Host.Outcome State Fault Refusal :=
  .next (frameSectorErase tail s)
/-- FRAME_PAGE_PROGRAM (R58). -/
def execFramePageProgram (tail : List Byte) (s : State) : Host.Outcome State Fault Refusal :=
  .next (framePageProgram tail s)
/-- FRAME_READ_STATUS (R54). -/
def execFrameReadStatus (tail : List Byte) (s : State) : Host.Outcome State Fault Refusal :=
  .next (frameReadStatus tail s)

/-- The chip executes a frame instruction. -/
def runFrame (c : FrameCmd) (tail : List Byte) (s : State) : State :=
  match c with
  | .readId => frameReadId tail s
  | .read => frameRead tail s
  | .writeEnable => frameWriteEnable tail s
  | .sectorErase => frameSectorErase tail s
  | .pageProgram => framePageProgram tail s
  | .readStatus => frameReadStatus tail s

/-! ## The chip on the bus -/

/-- The chip's part of `EV_SPI_SHIFT_DONE`, after the engine took the line's byte into `spi.rxbuf` (R52): with chip
select low the frame so far is decoded and executed; the first byte of a frame, and every byte of a frame that is none of
the six, is answered by any value. With chip select high the chip ignores the byte. -/
def chipShift (s : State) : State :=
  match s.par.flash with
  | .unconstrained => s
  | .reference =>
    if s.cs then s
    else
      match frameParts s.dev.frame with
      | .ok (c, tail) => runFrame c tail s
      | .error _ => exchangeByte s.spi.rxbuf s

/-- `cs <- 0`; a fall opens a new frame (R52). -/
def csLow (s : State) : State :=
  if s.cs then
    match s.par.flash with
    | .unconstrained => { s with cs := false }
    | .reference => clearFrame { s with cs := false }
  else s

/-- `cs <- 1`; a rise makes the chip act on its frame, a frame of no byte or of another first byte is ignored (R52,
R59). -/
def csHigh (s : State) : State :=
  if s.cs then s
  else
    match s.par.flash with
    | .unconstrained => { s with cs := true }
    | .reference =>
      match frameParts s.dev.frame with
      | .ok (c, tail) => runFrame c tail { s with cs := true }
      | .error _ => clearFrame { s with cs := true }

end Sys2Proof.Machine
end

