-- ==== Sys2Proof/Machine/Spi.lean ====
section
/-!
DEFINITION. The SPI master engine (42_spi.md): its six commands, two handlers, the go, finish and chip-select steps, and
the events of the SPI clock.
-/

namespace Sys2Proof.Machine

/-! ## Commands -/

/-- `SpiInit` (R103): every effect but the end of the operation. Raising chip select can make the flash chip act on an
open frame. -/
def spiInitState (s : State) : State :=
  takeBus .spi (csHigh { s with spi := SpiState.reset })

/-- The issue effect of `SPI_INIT` (R103). -/
def spiInit (s : State) : Except FaultCode State := .ok (finishOp (spiInitState s))

/-- The issue effect of `SPI_WRITE` (R104). -/
def spiWrite (s : State) : Except FaultCode State := .ok (startSpi .tx .buf s.op.buf s.op.len s)

/-- The issue effect of `SPI_READ` (R105). -/
def spiRead (s : State) : Except FaultCode State := .ok (startSpi .rx .buf s.op.buf s.op.len s)

/-- The issue effect of `SPI_BUSY` (R110). -/
def spiBusyQuery (s : State) : Except FaultCode State :=
  .ok (finishOp { s with res := { s.res with spib := spiBusy s } })

/-- The issue effect of `SPI_CS_LOW` (R111). -/
def spiCsLow (s : State) : Except FaultCode State := .ok (finishOp (csLow s))

/-- The issue effect of `SPI_CS_HIGH` (R112): none, the operation stays live. -/
def spiCsHigh (s : State) : Except FaultCode State := .ok s

/-- SPI_INIT (R103). -/
def execSpiInit (s : State) : Host.Outcome State Fault Refusal := issue .spiInit false spiInit s

/-- SPI_WRITE (R104). -/
def execSpiWrite (s : State) : Host.Outcome State Fault Refusal := issue .spiWrite false spiWrite s

/-- SPI_READ (R105). -/
def execSpiRead (s : State) : Host.Outcome State Fault Refusal := issue .spiRead false spiRead s

/-- SPI_BUSY (R110). -/
def execSpiBusy (s : State) : Host.Outcome State Fault Refusal := issue .spiBusy false spiBusyQuery s

/-- SPI_CS_LOW (R111). -/
def execSpiCsLow (s : State) : Host.Outcome State Fault Refusal := issue .spiCsLow false spiCsLow s

/-- SPI_CS_HIGH (R112). -/
def execSpiCsHigh (s : State) : Host.Outcome State Fault Refusal := issue .spiCsHigh false spiCsHigh s

/-! ## Handlers -/

/-- The transmit handler (R107). -/
def spiTxHandler (s : State) : Host.Outcome State Fault Refusal :=
  if s.spi.rem = 0 then .next { s with spi := { s.spi with done := true, txie := false } }
  else
    match srcRead s.spi.mem s.spi.cur.toNat s with
    | .error f => .fault f
    | .ok v =>
      .next { s with
        spi := { s.spi with txbuf := v, txFull := true, cur := s.spi.cur + 1, rem := s.spi.rem - 1 } }

/-- The receive handler (R108): every run stores the byte and writes the dummy 0x00, the last one before it marks
completion. -/
def spiRxHandler (s : State) : Host.Outcome State Fault Refusal :=
  match dstWrite s.spi.mem s.spi.cur.toNat s.spi.rxbuf s with
  | .error f => .fault f
  | .ok t =>
    if s.spi.rem - 1 = 0 then
      .next { t with
        spi := { s.spi with
          rxFull := false, txbuf := 0, txFull := true, rem := s.spi.rem - 1, done := true, rxie := false } }
    else
      .next { t with
        spi := { s.spi with
          rxFull := false, txbuf := 0, txFull := true, rem := s.spi.rem - 1, cur := s.spi.cur + 1 } }

/-! ## Sequencer steps -/

/-- R106's guard. -/
def spiGoEnabled (s : State) : Bool := decide (s.spi.phase = .waitIdle) && !spiBusy s && !s.fault

/-- The go step, the busy poll having succeeded (R106): a read discards a leftover byte under PAGE_READ and writes the
kick byte. -/
def spiGo (s : State) : State :=
  match s.spi.dir with
  | .tx => { s with spi := { s.spi with phase := .transferring, txie := true } }
  | .rx =>
    { s with
      spi := { s.spi with
        phase := .transferring, rxie := true
        rxFull := if s.par.staleScope = .pageRead then false else s.spi.rxFull
        txbuf := 0, txFull := true } }

/-- R109's guard. -/
def spiFinishEnabled (s : State) : Bool := decide (s.spi.phase = .transferring) && s.spi.done && !s.fault

/-- The finish step (R109): a host transfer ends its operation, a flash transfer is finished by the sequencer. -/
def spiFinish (s : State) : State :=
  if s.op.opc = some .spiWrite ∨ s.op.opc = some .spiRead then
    finishOp { s with spi := { s.spi with phase := .idle } }
  else { s with spi := { s.spi with phase := .idle } }

/-- R112's guard. -/
def csHighFinishEnabled (s : State) : Bool := decide (s.op.opc = some .spiCsHigh) && !spiBusy s && !s.fault

/-- The completion of SPI_CS_HIGH (R112). -/
def csHighFinish (s : State) : State := csHigh (finishOp s)

/-! ## Clock events -/

/-- Every SPI clock event needs the mode line at SPI and no fault (R72, R143). -/
def spiBusLive (s : State) : Bool := decide (s.arb.mode = .spi) && !s.fault

/-- R113's guard. -/
def evSpiLoadEnabled (s : State) : Bool := spiBusLive s && s.spi.txFull && !s.spi.shifting

/-- EV_SPI_LOAD (R113). -/
def evSpiLoad (s : State) : State :=
  { s with spi := { s.spi with shreg := s.spi.txbuf, txFull := false, shifting := true } }

/-- R114's guard. -/
def evSpiShiftDoneEnabled (s : State) : Bool := spiBusLive s && s.spi.shifting

/-- EV_SPI_SHIFT_DONE (R114): the line's byte comes into the receive register, and the flash chip, where it is
selected, receives the MOSI byte and fixes the bits its contract gives (20_memory.md R52). -/
def evSpiShiftDone (line : Byte) (s : State) : State :=
  chipShift { s with spi := { s.spi with shifting := false, rxbuf := line, rxFull := true } }

end Sys2Proof.Machine
end

