-- ==== Sys2Proof/Machine/Flash.lean ====
section
/-!
DEFINITION. The flash command sequencer (43_flash.md): the programs of R117, the five commands, the sequencer step R122,
the erase delay R121, the completion R129; and the flash chip's own events (20_memory.md R52, R59).
-/

namespace Sys2Proof.Machine

/-- The flash opcodes whose operation stays live: all but FLASH_INIT (R122, R129). -/
def isFlashOp (o : Option Opcode) : Bool :=
  match o with
  | some .flashReadId => true
  | some .flashRead => true
  | some .flashWrite => true
  | some .flashBusy => true
  | _ => false

/-- The program of FLASH_READID (R117). -/
def readIdProgram (b : Half) : List Action := [.csl, .txc FrameCmd.readId.code 1, .rxb b 3, .csh]

/-- The program of FLASH_READ (R117). -/
def readProgram (b n : Half) : List Action := [.csl, .txc FrameCmd.read.code 4, .rxb b n, .csh]

/-- The program of FLASH_WRITE (R117): write enable, sector erase, the fixed delay, write enable, page program, each
in a frame of its own. -/
def writeProgram (b n : Half) : List Action :=
  [.csl, .txc FrameCmd.writeEnable.code 1, .csh,
   .csl, .txc FrameCmd.sectorErase.code 4, .csh,
   .delay,
   .csl, .txc FrameCmd.writeEnable.code 1, .csh,
   .csl, .txc FrameCmd.pageProgram.code 4, .txb b n, .csh]

/-- The program of FLASH_BUSY (R117). -/
def busyProgram : List Action := [.csl, .txc FrameCmd.readStatus.code 1, .rxs, .csh]

/-- `fl.prog <- p; fl.pc <- 0; fl.started <- 0` (R125 to R128). -/
def loadProgram (p : List Action) (s : State) : State :=
  { s with fl := { s.fl with prog := p, pc := 0, started := false } }

/-- The address bytes of a read or a write, most significant first (R123). -/
def setHeaderAddr (a : FlashAddr) (s : State) : State :=
  { s with
    fl := { s.fl with
      hdr := { s.fl.hdr with b1 := addrByte2 a, b2 := addrByte1 a, b3 := addrByte0 a } } }

/-! ## Commands -/

/-- The issue effect of `FLASH_INIT` (R124). -/
def flashInit (s : State) : Except FaultCode State := .ok (finishOp (loadProgram [] (spiInitState s)))

/-- The issue effect of `FLASH_READID` (R125). -/
def flashReadId (s : State) : Except FaultCode State := .ok (loadProgram (readIdProgram s.op.buf) s)

/-- The issue effect of `FLASH_READ` (R126). -/
def flashRead (s : State) : Except FaultCode State :=
  .ok (loadProgram (readProgram s.op.buf s.op.len) (setHeaderAddr s.op.addr s))

/-- The issue effect of `FLASH_WRITE` (R127). -/
def flashWrite (s : State) : Except FaultCode State :=
  .ok (loadProgram (writeProgram s.op.buf s.op.len) (setHeaderAddr s.op.addr s))

/-- The issue effect of `FLASH_BUSY` (R128). -/
def flashBusy (s : State) : Except FaultCode State := .ok (loadProgram busyProgram s)

/-- FLASH_INIT (R124). -/
def execFlashInit (s : State) : Host.Outcome State Fault Refusal := issue .flashInit false flashInit s

/-- FLASH_READID (R125). -/
def execFlashReadId (s : State) : Host.Outcome State Fault Refusal := issue .flashReadId false flashReadId s

/-- FLASH_READ (R126). -/
def execFlashRead (s : State) : Host.Outcome State Fault Refusal := issue .flashRead false flashRead s

/-- FLASH_WRITE (R127). -/
def execFlashWrite (s : State) : Host.Outcome State Fault Refusal := issue .flashWrite false flashWrite s

/-- FLASH_BUSY (R128). -/
def execFlashBusy (s : State) : Host.Outcome State Fault Refusal := issue .flashBusy false flashBusy s

/-! ## The sequencer -/

/-- `fl.pc <- fl.pc + 1`: an action is finished (R122). -/
def nextAction (s : State) : State := { s with fl := { s.fl with pc := s.fl.pc + 1, started := false } }

/-- `fl.started <- 1` (R122). -/
def markStarted (s : State) : State := { s with fl := { s.fl with started := true } }

/-- `fl.hdr[0] <- c` (R116). -/
def setHeaderCommand (c : Byte) (s : State) : State :=
  { s with fl := { s.fl with hdr := { s.fl.hdr with b0 := c } } }

/-- How a transfer action starts (R116, R120); `none` for the actions that start no transfer. -/
def actionStart? (a : Action) (s : State) : Option State :=
  match a with
  | .txc c k => some (startSpi .tx .hdr 0 k (setHeaderCommand c s))
  | .txb b n => some (startSpi .tx .buf b n s)
  | .rxb b n => some (startSpi .rx .buf b n s)
  | .rxs => some (startSpi .rx .sr 0 1 s)
  | .csl => none
  | .csh => none
  | .delay => none

/-- One case of R122, `none` where the case is not enabled. -/
def runAction? (a : Action) (s : State) : Option State :=
  match a with
  | .csl => some (csLow { s with fl := { s.fl with pc := s.fl.pc + 1 } })
  | .csh => if spiBusy s then none else some (csHigh { s with fl := { s.fl with pc := s.fl.pc + 1 } })
  | .delay => none
  | _ =>
    if s.fl.started then
      if s.spi.phase = .idle then some (nextAction s) else none
    else (actionStart? a s).map markStarted

/-- The sequencer step, where it is enabled (R122). -/
def flashStep? (s : State) : Option State :=
  if isFlashOp s.op.opc && !s.fault then
    match s.fl.prog[s.fl.pc]? with
    | none => none
    | some a => runAction? a s
  else none

/-- R121's guard. -/
def evEraseDelayEnabled (s : State) : Bool :=
  decide (s.op.opc = some .flashWrite) && decide (s.fl.prog[s.fl.pc]? = some .delay) && !s.fault &&
    (!s.par.eraseFits || !s.dev.wip)

/-- EV_ERASE_DELAY (R121). -/
def evEraseDelay (s : State) : State := { s with fl := { s.fl with pc := s.fl.pc + 1 } }

/-- R129's guard. -/
def flashFinishEnabled (s : State) : Bool :=
  isFlashOp s.op.opc && decide (s.fl.pc = s.fl.prog.length) && decide (s.fl.prog ≠ []) && !s.fault

/-- Flash completion (R129); FLASH_BUSY latches the WIP bit of the status byte. -/
def flashFinish (s : State) : State :=
  finishOp (loadProgram []
    { s with
      res := { s.res with
        wip := if s.op.opc = some .flashBusy then s.fl.sr.getLsbD Config.wipBit else s.res.wip } })

/-! ## The flash chip's own events -/

/-- EV_FLASH_READY is enabled when `wip = 1`, also while the engine is frozen (20_memory.md R59, 60_exceptions.md R143). -/
def evFlashReadyEnabled (s : State) : Bool := s.dev.wip

/-- EV_FLASH_READY (20_memory.md R59). -/
def evFlashReady (s : State) : State := { s with dev := { s.dev with wip := false } }

/-- A power cycle of the chip: `M` is kept (20_memory.md R52), the latches come up as the environment says and no
frame is open (entry 21, DESIGN CHOICE). -/
def evFlashPowerCycle (wel wip : Bool) (s : State) : State :=
  { s with dev := { s.dev with wel := wel, wip := wip, frame := [] } }

end Sys2Proof.Machine
end

