-- ==== Sys2Proof/Machine/I2c.lean ====
section
/-!
DEFINITION. The I2C master engine (41_i2c.md): its three commands, three handlers, the sequencer steps that finish its
operations, and the events of the I2C bus. A step's guard (`…Enabled`) and its effect stand apart.
-/

namespace Sys2Proof.Machine

/-! ## Commands -/

/-- The issue effect of `I2C_INIT` (R86). `txdata`, `rxbuf` and `stopping` are not in R86's list: the first two keep
their values, and `stopping` is 0 by the issue check. -/
def i2cInit (s : State) : Except FaultCode State :=
  .ok (finishOp (takeBus .i2c
    { s with
      i2c := { s.i2c with
        sa := slaveAddr s.op.addr, phase := .idle, dir := .tx, rem := 0, cur := 0
        done := false, ackOk := false, sendStop := false
        txie := false, rxie := false, nackie := false
        txifg := false, rxifg := false, nackifg := false
        nacked := false, finalRx := false, held := false } }))

/-- The issue effect of `I2C_WRITE` (R87). -/
def i2cWrite (s : State) : Except FaultCode State :=
  .ok { s with
    i2c := { s.i2c with
      done := false, ackOk := false
      dir := .tx, rem := s.op.len, cur := s.op.buf, sendStop := s.op.stop
      txie := true, nackie := true, rxie := false
      txifg := false, rxifg := false, nackifg := false
      nacked := false, finalRx := false, held := true
      phase := .starting } }

/-- The issue effect of `I2C_READ` (R92): for a length of 1 the stop is issued at once. -/
def i2cRead (s : State) : Except FaultCode State :=
  .ok { s with
    i2c := { s.i2c with
      done := false
      dir := .rx, rem := s.op.len, cur := s.op.buf
      rxie := true, txie := false
      txifg := false, rxifg := false, nackifg := false
      nacked := false, finalRx := false, held := true
      phase := .starting
      stopping := if s.op.len = 1 then true else s.i2c.stopping } }

/-- I2C_INIT (R86). -/
def execI2cInit (s : State) : Host.Outcome State Fault Refusal := issue .i2cInit false i2cInit s

/-- I2C_WRITE (R87), `stop` being `CMD[8]`. -/
def execI2cWrite (stop : Bool) (s : State) : Host.Outcome State Fault Refusal := issue .i2cWrite stop i2cWrite s

/-- I2C_READ (R92). -/
def execI2cRead (s : State) : Host.Outcome State Fault Refusal := issue .i2cRead false i2cRead s

/-! ## Handlers -/

/-- The transmit handler (R88). -/
def i2cTxHandler (s : State) : Host.Outcome State Fault Refusal :=
  if s.i2c.rem = 0 then
    .next { s with i2c := { s.i2c with ackOk := true, done := true, txie := false } }
  else
    match memRead s.i2c.cur.toNat s with
    | .error f => .fault f
    | .ok v =>
      .next { s with
        i2c := { s.i2c with txdata := v, txifg := false, cur := s.i2c.cur + 1, rem := s.i2c.rem - 1 } }

/-- The NACK handler (R89). -/
def i2cNackHandler (s : State) : Host.Outcome State Fault Refusal :=
  .next { s with i2c := { s.i2c with nackifg := false, done := true, phase := .ackFailed } }

/-- The receive handler (R93): the byte is stored in either branch; the last one marks completion, and with one byte
left the stop is issued. -/
def i2cRxHandler (s : State) : Host.Outcome State Fault Refusal :=
  match memWrite s.i2c.cur.toNat s.i2c.rxbuf s with
  | .error f => .fault f
  | .ok t =>
    if s.i2c.rem - 1 = 0 then
      .next { t with i2c := { s.i2c with rxifg := false, rem := s.i2c.rem - 1, done := true } }
    else
      .next { t with
        i2c := { s.i2c with
          rxifg := false, rem := s.i2c.rem - 1, cur := s.i2c.cur + 1
          stopping := if s.i2c.rem - 1 = 1 then true else s.i2c.stopping } }

/-! ## Sequencer steps -/

/-- A write returns: its status is latched and the operation ends (R90, R91). -/
def i2cWriteReturns (s : State) : State :=
  finishOp { s with i2c := { s.i2c with phase := .idle }, res := { s.res with nack := writeStatus s } }

/-- R90's guard. -/
def i2cWriteContEnabled (s : State) : Bool :=
  decide (s.op.opc = some .i2cWrite) && s.i2c.done &&
    (decide (s.i2c.phase = .transmitting) || decide (s.i2c.phase = .ackFailed)) && !s.fault

/-- The write continuation (R90). -/
def i2cWriteCont (s : State) : State :=
  if s.i2c.sendStop then { s with i2c := { s.i2c with stopping := true, phase := .awaitingStop } }
  else i2cWriteReturns s

/-- R91's guard. -/
def i2cWriteFinishEnabled (s : State) : Bool :=
  decide (s.op.opc = some .i2cWrite) && decide (s.i2c.phase = .awaitingStop) && !s.i2c.stopping && !s.fault

/-- The write finish after the stop (R91). -/
def i2cWriteFinish (s : State) : State := i2cWriteReturns s

/-- R94's guard. -/
def i2cReadFinishEnabled (s : State) : Bool :=
  decide (s.op.opc = some .i2cRead) && s.i2c.done &&
    (decide (s.i2c.phase = .receiving) || decide (s.i2c.phase = .ackFailed)) && !s.fault

/-- The read finish: it does not wait for the stop (R94). -/
def i2cReadFinish (s : State) : State := finishOp { s with i2c := { s.i2c with phase := .idle } }

/-! ## Bus events -/

/-- Every I2C event needs the mode line at I2C and no fault (R72, R143). -/
def i2cBusLive (s : State) : Bool := decide (s.arb.mode = .i2c) && !s.fault

/-- R95's guard. -/
def evI2cTxRdyEnabled (s : State) : Bool :=
  i2cBusLive s && decide (s.i2c.dir = .tx) &&
    (decide (s.i2c.phase = .starting) || decide (s.i2c.phase = .transmitting)) &&
    !s.i2c.txifg && !s.i2c.nacked && !s.i2c.done

/-- EV_I2C_TXRDY (R95). -/
def evI2cTxRdy (s : State) : State :=
  { s with
    i2c := { s.i2c with
      txifg := true
      phase := if s.i2c.phase = .starting then .transmitting else s.i2c.phase } }

/-- R96's guard. -/
def evI2cNackEnabled (s : State) : Bool :=
  i2cBusLive s && !s.i2c.nacked && !s.i2c.done &&
    ((decide (s.i2c.dir = .tx) && (decide (s.i2c.phase = .starting) || decide (s.i2c.phase = .transmitting)) &&
        !s.i2c.txifg) ||
     (decide (s.i2c.dir = .rx) && decide (s.i2c.phase = .starting) && !s.i2c.rxifg))

/-- EV_I2C_NACK (R96). -/
def evI2cNack (s : State) : State := { s with i2c := { s.i2c with nackifg := true, nacked := true } }

/-- R97's guard. -/
def evI2cRxByteEnabled (s : State) : Bool :=
  i2cBusLive s && decide (s.i2c.dir = .rx) &&
    (decide (s.i2c.phase = .starting) || decide (s.i2c.phase = .receiving)) &&
    !s.i2c.rxifg && !s.i2c.nacked && !s.i2c.finalRx && !s.i2c.done

/-- EV_I2C_RXBYTE(v) (R97). -/
def evI2cRxByte (v : Byte) (s : State) : State :=
  { s with
    i2c := { s.i2c with
      rxbuf := v, rxifg := true
      phase := if s.i2c.phase = .starting then .receiving else s.i2c.phase
      finalRx := if s.i2c.stopping then true else s.i2c.finalRx } }

/-- R98's guard. -/
def evI2cStopDoneEnabled (s : State) : Bool :=
  i2cBusLive s && s.i2c.stopping && (decide (s.i2c.dir = .tx) || s.i2c.finalRx || s.i2c.nacked)

/-- EV_I2C_STOP_DONE (R98). -/
def evI2cStopDone (s : State) : State := { s with i2c := { s.i2c with stopping := false, held := false } }

end Sys2Proof.Machine
end

