-- ==== Sys2Proof/Machine/Dispatch.lean ====
section
/-!
DEFINITION. The meaning of every instruction: the sixteen commands as the host's write to `CMD` issues them
(30_encoding.md R64), the six frames as the flash chip executes them (20_memory.md R52 to R58).
-/

namespace Sys2Proof.Machine

def exec (i : Instr) (s : State) : Host.Outcome State Fault Refusal :=
  match i with
  | .bindTx => Sys2Proof.Machine.execBindTx s
  | .bindRx => Sys2Proof.Machine.execBindRx s
  | .i2cInit => Sys2Proof.Machine.execI2cInit s
  | .i2cWrite stop => Sys2Proof.Machine.execI2cWrite stop s
  | .i2cRead => Sys2Proof.Machine.execI2cRead s
  | .spiInit => Sys2Proof.Machine.execSpiInit s
  | .spiWrite => Sys2Proof.Machine.execSpiWrite s
  | .spiRead => Sys2Proof.Machine.execSpiRead s
  | .spiBusy => Sys2Proof.Machine.execSpiBusy s
  | .spiCsLow => Sys2Proof.Machine.execSpiCsLow s
  | .spiCsHigh => Sys2Proof.Machine.execSpiCsHigh s
  | .flashInit => Sys2Proof.Machine.execFlashInit s
  | .flashReadId => Sys2Proof.Machine.execFlashReadId s
  | .flashRead => Sys2Proof.Machine.execFlashRead s
  | .flashWrite => Sys2Proof.Machine.execFlashWrite s
  | .flashBusy => Sys2Proof.Machine.execFlashBusy s
  | .frameReadId tail => Sys2Proof.Machine.execFrameReadId tail s
  | .frameRead tail => Sys2Proof.Machine.execFrameRead tail s
  | .frameWriteEnable tail => Sys2Proof.Machine.execFrameWriteEnable tail s
  | .frameSectorErase tail => Sys2Proof.Machine.execFrameSectorErase tail s
  | .framePageProgram tail => Sys2Proof.Machine.execFramePageProgram tail s
  | .frameReadStatus tail => Sys2Proof.Machine.execFrameReadStatus tail s

end Sys2Proof.Machine
end

