-- ==== Sys2Proof/Machine/HostBus.lean ====
section
/-!
DEFINITION. The host's accesses (20_memory.md R37, R38, R39, R43): registers and the buffer window, the fault of every
other access in the engine's range, and the refusal of an access outside it.
-/

namespace Sys2Proof.Machine

/-- The host address of a register offset (R35, R43); ENGINE_BASE is OPEN (entry 5). -/
def hostAddress (off : Nat) : Nat := Config.engineBase + off

/-- The offset of a host address; none below ENGINE_BASE. -/
def hostOffset? (a : Nat) : Option Nat := if Config.engineBase ≤ a then some (a - Config.engineBase) else none

/-- The first offset of the buffer window (R43). -/
def windowBase : Nat := 0x100

/-- What a 32-bit read of a register offset returns; none at an unmapped or misaligned offset (R37, R43). `CMD` reads
as 0 (10_state.md R14). -/
def regRead? (off : Nat) (s : State) : Option Word :=
  if off = 0x000 then some 0
  else if off = 0x004 then some (bufWord s)
  else if off = 0x008 then some (lenWord s)
  else if off = 0x00C then some (addrWord s)
  else if off = 0x010 then some (statusWord s)
  else if off = 0x014 then some (slaveWord s)
  else none

/-- A write to `CMD`: no effect while frozen; an illegal word raises ILLEGAL_CMD; a legal one is executed (30_encoding.md
R64, R65). -/
def writeCmd (w : Word) (s : State) : Host.Outcome State Fault Refusal :=
  if s.fault then .next s
  else
    match decode (.cmd32 w) with
    | .error _ => .next (raiseFault .illegalCmd s)
    | .ok i => exec i s

/-- A read answers: a host read has no other effect (R39). -/
def answerHost (w : Word) (s : State) : State := { s with rdata := some w }

/-- A faulting access raises HOST_ACCESS; a faulting read returns 0 (R37, R38, 60_exceptions.md R142). -/
def faultingAccess (d : Dir) (s : State) : State :=
  match d with
  | .read => answerHost 0 (raiseFault .hostAccess s)
  | .write => raiseFault .hostAccess s

/-- A 32-bit write of a register (R39): BUF, LEN and ADDR store their implemented bits, also while an operation is live
and while frozen (60_exceptions.md R143); STATUS and SLAVE ignore it; none at an unmapped or misaligned offset. -/
def regWrite? (off : Nat) (w : Word) (s : State) : Option (Host.Outcome State Fault Refusal) :=
  if off = 0x000 then some (writeCmd w s)
  else if off = 0x004 then some (.next { s with reg := { s.reg with buf := w.setWidth 16 } })
  else if off = 0x008 then some (.next { s with reg := { s.reg with len := w.setWidth 16 } })
  else if off = 0x00C then some (.next { s with reg := { s.reg with addr := w.setWidth 24 } })
  else if off = 0x010 then some (.next s)
  else if off = 0x014 then some (.next s)
  else none

/-- An access in 0x000 to 0x0FF (R37). -/
def regAccess (a : HostAccess) (s : State) : Host.Outcome State Fault Refusal :=
  if a.bits ≠ 32 then .next (faultingAccess a.dir s)
  else
    match a.dir with
    | .read =>
      match regRead? a.off s with
      | some w => .next (answerHost w s)
      | none => .next (faultingAccess .read s)
    | .write =>
      match regWrite? a.off a.data s with
      | some o => o
      | none => .next (faultingAccess .write s)

/-- An access to byte `i` of the buffer window, closed while an operation is live (R38). -/
def windowAccess (a : HostAccess) (i : Nat) (s : State) : State :=
  if a.bits ≠ 8 ∨ s.op.opc.isSome then faultingAccess a.dir s
  else
    match a.dir with
    | .read => answerHost ((bufByte s i).setWidth 32) s
    | .write => setBufByte s i (a.data.setWidth 8)

/-- One host access. Above the buffer window it is outside the engine (R37; entry 16). -/
def hostAccess (a : HostAccess) (s : State) : Host.Outcome State Fault Refusal :=
  if a.off < windowBase then regAccess a s
  else if a.off < windowBase + s.par.bufBytes then .next (windowAccess a (a.off - windowBase) s)
  else .refused .outsideEngine

end Sys2Proof.Machine
end

