-- ==== Sys2Proof/Machine/Agents.lean ====
section
/-!
DEFINITION. The steps of the agents (00_scope.md R10): which are enabled and what each does, interrupt dispatch
(40_arbiter.md R77 to R79), reset (70_reset_and_hazards.md R158, R159), and where the next instruction is found.
-/

namespace Sys2Proof.Machine

/-- The handler of a source (40_arbiter.md R76). -/
def runHandler (src : Source) (s : State) : Host.Outcome State Fault Refusal :=
  match src with
  | .i2cTx => i2cTxHandler s
  | .i2cRx => i2cRxHandler s
  | .i2cNack => i2cNackHandler s
  | .spiTx => spiTxHandler s
  | .spiRx => spiRxHandler s

/-- A source is dispatched when it is pending and enabled, its vector is bound, and the engine is not frozen (R77,
R78). -/
def isrEnabled (src : Source) (s : State) : Bool :=
  !s.fault && sourcePending src s && (sourceSlot src s).isSome

/-- Dispatch: the source's own handler runs, or, on a vector bound to the other engine, MODE_MISMATCH is raised (R77,
R79). -/
def dispatchIsr (src : Source) (s : State) : Host.Outcome State Fault Refusal :=
  if sourceSlot src s = some (sourceEngine src) then runHandler src s else .next (raiseFault .modeMismatch s)

/-- Whether a sequencer step is enabled. -/
def seqEnabled (k : SeqStep) (s : State) : Bool :=
  match k with
  | .i2cWriteCont => i2cWriteContEnabled s
  | .i2cWriteFinish => i2cWriteFinishEnabled s
  | .i2cReadFinish => i2cReadFinishEnabled s
  | .spiGo => spiGoEnabled s
  | .spiFinish => spiFinishEnabled s
  | .csHighFinish => csHighFinishEnabled s
  | .flashStep => (flashStep? s).isSome
  | .flashFinish => flashFinishEnabled s

/-- What an enabled sequencer step does. -/
def runSeq (k : SeqStep) (s : State) : State :=
  match k with
  | .i2cWriteCont => i2cWriteCont s
  | .i2cWriteFinish => i2cWriteFinish s
  | .i2cReadFinish => i2cReadFinish s
  | .spiGo => spiGo s
  | .spiFinish => spiFinish s
  | .csHighFinish => csHighFinish s
  | .flashStep => (flashStep? s).getD s
  | .flashFinish => flashFinish s

/-- Whether an environment event is enabled. -/
def envEnabled (e : EnvEvent) (s : State) : Bool :=
  match e with
  | .i2cTxRdy => evI2cTxRdyEnabled s
  | .i2cNack => evI2cNackEnabled s
  | .i2cRxByte _ => evI2cRxByteEnabled s
  | .i2cStopDone => evI2cStopDoneEnabled s
  | .spiLoad => evSpiLoadEnabled s
  | .spiShiftDone _ => evSpiShiftDoneEnabled s
  | .eraseDelay => evEraseDelayEnabled s
  | .flashReady => evFlashReadyEnabled s
  | .flashPowerCycle _ _ => true

/-- What an enabled environment event does. -/
def runEnv (e : EnvEvent) (s : State) : State :=
  match e with
  | .i2cTxRdy => evI2cTxRdy s
  | .i2cNack => evI2cNack s
  | .i2cRxByte v => evI2cRxByte v s
  | .i2cStopDone => evI2cStopDone s
  | .spiLoad => evSpiLoad s
  | .spiShiftDone line => evSpiShiftDone line s
  | .eraseDelay => evEraseDelay s
  | .flashReady => evFlashReady s
  | .flashPowerCycle wel wip => evFlashPowerCycle wel wip s

/-- Reset (70_reset_and_hazards.md R158, R159): chip select rises, so the flash chip acts on an open frame; every field of
the engine takes its reset value and `bufmem` a new draw; the environment's state is not touched (entry 20). -/
def resetEngine (s : State) : State :=
  { State.reset with
    dev := (csHigh s).dev
    par := s.par
    rdata := s.rdata
    epoch := s.epoch + 1
    moves := s.moves
    draws := (csHigh s).draws }

/-- Whether a move is a step the machine can take: the host may always access, the platform may always reset. -/
def moveEnabled (m : Move) (s : State) : Bool :=
  match m with
  | .host _ => true
  | .seq k => seqEnabled k s
  | .isr src => isrEnabled src s
  | .env e => envEnabled e s
  | .reset => true

/-- What an enabled move does. -/
def runMove (m : Move) (s : State) : Host.Outcome State Fault Refusal :=
  match m with
  | .host a => hostAccess a s
  | .seq k => .next (runSeq k s)
  | .isr src => dispatchIsr src s
  | .env e => .next (runEnv e s)
  | .reset => .next (resetEngine s)

/-- A move that is not enabled does not happen: nothing changes (00_scope.md R9, R10; entry 2). -/
def performMove (m : Move) (s : State) : Host.Outcome State Fault Refusal :=
  if moveEnabled m s then runMove m s else .next s

/-- The next step: the first of the moves still to come, or, when none is listed, the next of the stream of moves
(entry 1). -/
def nextStep (s : State) : Host.Outcome State Fault Refusal :=
  match s.moves with
  | m :: rest => performMove m { s with moves := rest }
  | [] => performMove (Config.anyMove s.draws) { s with draws := s.draws + 1 }

/-- A host write of a command word, as a move. -/
def commandMove (w : Word) : Move := .host { dir := .write, bits := 32, off := 0x000, data := w }

/-- A state whose next step exchanges the byte after a frame: the frame open in the flash chip, a byte in the shift register,
the line at the byte the receive register holds (entry 3). -/
def placeExchange (bytes : List Byte) (s : State) : State :=
  { s with
    arb := { s.arb with mode := .spi }
    spi := { s.spi with shifting := true }
    cs := false
    fault := false
    dev := { s.dev with frame := bytes }
    par := { s.par with flash := .reference }
    moves := .env (.spiShiftDone s.spi.rxbuf) :: s.moves }

/-- A state whose next step raises chip select on a frame: the frame open in the flash chip, the datapath drained, a
SPI_CS_HIGH live (entry 3). -/
def placeRise (bytes : List Byte) (s : State) : State :=
  { s with
    op := { s.op with opc := some .spiCsHigh }
    spi := { s.spi with txFull := false, shifting := false }
    cs := false
    fault := false
    dev := { s.dev with frame := bytes }
    par := { s.par with flash := .reference }
    moves := .seq .csHighFinish :: s.moves }

/-- A code put where the next step finds it: a command word as the host's next write to `CMD`; a frame that is read from
as the open frame of the next clocked byte; a frame the chip acts on as the open frame of the next chip-select rise. -/
def placeCode (c : Code) (s : State) : State :=
  match c with
  | .cmd32 w => { s with moves := commandMove w :: s.moves }
  | .spiFrame bytes =>
    match frameParts bytes with
    | .ok (.readId, _) => placeExchange bytes s
    | .ok (.read, _) => placeExchange bytes s
    | .ok (.readStatus, _) => placeExchange bytes s
    | .ok (.writeEnable, _) => placeRise bytes s
    | .ok (.sectorErase, _) => placeRise bytes s
    | .ok (.pageProgram, _) => placeRise bytes s
    | .error _ => placeRise bytes s

end Sys2Proof.Machine
end

