-- ==== Sys2Proof/Machine/Step.lean ====
section
/-!
DEFINITION. One step of the machine, and the placing of an instruction where the next step finds it.
-/

namespace Sys2Proof.Machine

/-- One atomic step of one agent (00_scope.md R10). -/
def step (s : State) : Host.Outcome State Fault Refusal := nextStep s

/-- The state with an instruction of spec/opcode_table.json placed where the next step finds it (entries 3, 27). -/
def State.withFetchWord (s : State) (nbits w : Nat) : State := placeCode (tableCode nbits w) s

end Sys2Proof.Machine
end

