-- ==== Sys2Proof/Safety.lean ====
section
/-!
DEFINITION. What counts as a sound state, in the terms the claims use: the invariants 10_state.md R34 lets a model
assert, what 40_arbiter.md R79 and 60_exceptions.md R138, R139 say no run from reset reaches, and the canonical form of
the memories.
-/

namespace Sys2Proof.Machine

/-- The memories are in their canonical form, and the buffer memory lists indices below BUFMEM_BYTES alone. -/
def MemoryForm (s : State) : Prop :=
  Memory.wf s.bufmem ∧ (∀ c ∈ s.bufmem, c.1 < s.par.bufBytes) ∧ s.dev.wf

/-- `BUFMEM_BYTES` is a value from 4 to 65536 (00_scope.md R7). -/
def ParamsOk (p : Params) : Prop := 4 ≤ p.bufBytes ∧ p.bufBytes ≤ 65536

/-- The live operation is an I2C transfer. -/
def i2cOpLive (s : State) : Prop := s.op.opc = some .i2cWrite ∨ s.op.opc = some .i2cRead

/-- The live operation is a host SPI transfer. -/
def spiOpLive (s : State) : Prop := s.op.opc = some .spiWrite ∨ s.op.opc = some .spiRead

/-- The live operation is a flash command. -/
def flashOpLive (s : State) : Prop := isFlashOp s.op.opc = true

/-- An action that runs an SPI transfer (43_flash.md R120). -/
def transferAction (a : Action) : Bool :=
  match a with
  | .txc _ _ => true
  | .txb _ _ => true
  | .rxb _ _ => true
  | .rxs => true
  | .csl => false
  | .csh => false
  | .delay => false

/-- The transfer an action starts stays inside the memory it names, and a read has at least one byte (43_flash.md R116,
60_exceptions.md R138, R139). -/
def actionInRange (size : Nat) (a : Action) : Prop :=
  match a with
  | .txc _ k => k.toNat ≤ 4
  | .txb b n => b.toNat + n.toNat ≤ size
  | .rxb b n => b.toNat + n.toNat ≤ size ∧ 1 ≤ n.toNat
  | .rxs => True
  | .csl => True
  | .csh => True
  | .delay => True

/-- How many bytes the memory a SPI cursor indexes has (20_memory.md R36). -/
def spiMemSize (m : SpiMem) (s : State) : Nat :=
  match m with
  | .buf => s.par.bufBytes
  | .hdr => 4
  | .sr => 1

/-- 10_state.md R34 (a), (b), (c), with what they need to be kept by every step: a phase or a program that is not idle
belongs to a live operation, and a started flash transfer stands at a transfer action. -/
structure OperationForm (s : State) : Prop where
  idle : s.op.opc = none → s.i2c.phase = .idle ∧ s.spi.phase = .idle ∧ s.fl.prog = []
  i2cPhase : s.i2c.phase ≠ .idle → i2cOpLive s
  spiPhase : s.spi.phase ≠ .idle → spiOpLive s ∨ (flashOpLive s ∧ s.fl.started = true)
  program : s.fl.prog ≠ [] → flashOpLive s
  started : s.fl.started = true → ∃ a, s.fl.prog[s.fl.pc]? = some a ∧ transferAction a = true

/-- The owner of a live operation owns the bus (40_arbiter.md R79, R82). -/
structure OwnerForm (s : State) : Prop where
  i2cOwns : i2cOpLive s → owns .i2c s = true
  spiOwns : spiOpLive s ∨ flashOpLive s → owns .spi s = true

/-- The I2C engine's flags agree with its phase, and its buffer lies in `bufmem` (41_i2c.md R88, R89, R93; 60_exceptions.md
R139). -/
structure I2cForm (s : State) : Prop where
  txPending : s.i2c.txifg = true → s.i2c.txie = true → s.i2c.phase = .transmitting
  rxPending : s.i2c.rxifg = true → s.i2c.rxie = true →
    s.i2c.phase = .receiving ∧ s.i2c.done = false ∧ 1 ≤ s.i2c.rem.toNat
  nackPending : s.i2c.nackifg = true →
    (s.i2c.phase = .starting ∨ s.i2c.phase = .transmitting) ∧ s.i2c.nacked = true ∧
      s.i2c.txifg = false ∧ s.i2c.rxifg = false ∧ s.i2c.done = false
  oneWay : s.i2c.phase ≠ .idle →
    (s.i2c.dir = .tx → s.i2c.rxifg = false) ∧ (s.i2c.dir = .rx → s.i2c.txifg = false)
  txDone : s.i2c.phase = .transmitting → s.i2c.done = true → s.i2c.txie = false
  rxLeft : (s.i2c.phase = .starting ∨ s.i2c.phase = .receiving) → s.i2c.dir = .rx → s.i2c.done = false →
    1 ≤ s.i2c.rem.toNat
  inRange : s.i2c.phase ≠ .idle → s.i2c.cur.toNat + s.i2c.rem.toNat ≤ s.par.bufBytes

/-- The SPI engine's enables agree with its phase, and its cursor stays inside the memory it indexes (42_spi.md R107, R108;
60_exceptions.md R138, R139). -/
structure SpiForm (s : State) : Prop where
  txEnabled : s.spi.txie = true → s.spi.phase = .transferring ∧ s.spi.dir = .tx ∧ s.spi.done = false
  rxEnabled : s.spi.rxie = true → s.spi.phase = .transferring ∧ s.spi.dir = .rx ∧ s.spi.done = false
  rxLeft : s.spi.phase ≠ .idle → s.spi.dir = .rx → s.spi.done = false → 1 ≤ s.spi.rem.toNat
  waiting : s.spi.phase = .waitIdle → s.spi.done = false
  inRange : s.spi.phase ≠ .idle → s.spi.cur.toNat + s.spi.rem.toNat ≤ spiMemSize s.spi.mem s
  actions : ∀ a ∈ s.fl.prog, actionInRange s.par.bufBytes a

/-- A sound state: every one of the forms above. It holds at reset and every step keeps it (stated in
Certificates/Slice0/Obligations.lean). -/
structure Sound (s : State) : Prop where
  params : ParamsOk s.par
  memory : MemoryForm s
  operation : OperationForm s
  owner : OwnerForm s
  i2c : I2cForm s
  spi : SpiForm s

/-- A run of any number of steps from reset, whatever parameters and whatever list of moves stand in the state
(00_scope.md R7, R10; entries 1 and 4). -/
inductive Reachable : State → Prop where
  | start (p : Params) (ms : List Move) (h : ParamsOk p) : Reachable { State.reset with par := p, moves := ms }
  | next (s t : State) (h : Reachable s) (hs : step s = .next t) : Reachable t

/-! ## Terms of the statements -/

/-- The state with a move put first: its next step takes that move (entry 1). -/
def State.queued (s : State) (m : Move) : State := { s with moves := m :: s.moves }

/-- The engine takes a command: it is not frozen and no operation is live (30_encoding.md R64). -/
def ready (s : State) : Prop := s.fault = false ∧ s.op.opc = none

/-- `op` after the issue of a command that stays live (30_encoding.md R64). -/
def latched (s : State) (o : Opcode) (stop : Bool) : LiveOp :=
  { opc := some o, buf := s.reg.buf, len := s.reg.len, addr := s.reg.addr, stop := stop }

/-- `op` after a command that completes in the issuing step (30_encoding.md R64; entry 24). -/
def completed (s : State) : LiveOp :=
  { opc := none, buf := s.reg.buf, len := s.reg.len, addr := s.reg.addr, stop := false }

/-- The state after a step that raises the fault of number `f` (60_exceptions.md R132, R133). -/
def faulted (s : State) (f : BitVec 4) : State := { s with fault := true, fcode := f }

/-- The table of reset values of 10_state.md R33, field by field; `bufmem` holds no written byte. -/
def ResetForm (s : State) : Prop :=
  s.reg = { buf := 0, len := 0, addr := 0 } ∧
  s.op = { opc := none, buf := 0, len := 0, addr := 0, stop := false } ∧
  s.res = { nack := false, spib := false, wip := false } ∧
  s.arb = { mode := .i2c, tx := none, rx := none } ∧
  (s.i2c.sa = 0 ∧ s.i2c.rem = 0 ∧ s.i2c.cur = 0 ∧ s.i2c.done = false ∧ s.i2c.ackOk = false ∧
    s.i2c.sendStop = false ∧ s.i2c.txie = false ∧ s.i2c.rxie = false ∧ s.i2c.nackie = false) ∧
  s.i2c.dir = .tx ∧ s.i2c.phase = .idle ∧
  (s.i2c.txifg = false ∧ s.i2c.txdata = 0 ∧ s.i2c.rxifg = false ∧ s.i2c.rxbuf = 0 ∧ s.i2c.nackifg = false ∧
    s.i2c.nacked = false ∧ s.i2c.stopping = false ∧ s.i2c.finalRx = false ∧ s.i2c.held = false) ∧
  s.spi.dir = .tx ∧
  (s.spi.rem = 0 ∧ s.spi.cur = 0 ∧ s.spi.done = false ∧ s.spi.txie = false ∧ s.spi.rxie = false ∧
    s.spi.txbuf = 0 ∧ s.spi.txFull = false ∧ s.spi.shreg = 0 ∧ s.spi.shifting = false ∧ s.spi.rxbuf = 0 ∧
    s.spi.rxFull = false) ∧
  s.spi.mem = .buf ∧ s.spi.phase = .idle ∧
  s.fl = { prog := [], pc := 0, started := false, hdr := { b0 := 0, b1 := 0, b2 := 0, b3 := 0 }, sr := 0 } ∧
  s.cs = true ∧ s.fault = false ∧ s.fcode = 0 ∧
  (∀ i, bufByte s i = Config.bufFill s.epoch i)

/-- The moves that carry an accepted write of `n` bytes through: an acknowledge and a handler run for the address and for
each byte, then the continuation (41_i2c.md R100 (a)). -/
def writeSchedule (n : Nat) : List Move :=
  match n with
  | 0 => [.env .i2cTxRdy, .isr .i2cTx, .seq .i2cWriteCont]
  | k + 1 => .env .i2cTxRdy :: .isr .i2cTx :: writeSchedule k

/-- The moves that carry an accepted SPI write through when each byte is clocked out before the next is loaded; `lines` are the
MISO bytes of the line (42_spi.md R115 (b)). -/
def spiWriteSchedule (lines : List Byte) : List Move :=
  match lines with
  | [] => [.isr .spiTx, .seq .spiFinish]
  | v :: r => .isr .spiTx :: .env .spiLoad :: .env (.spiShiftDone v) :: spiWriteSchedule r

/-- The bytes `[b, b + n)` of the buffer memory. -/
def bufBytesFrom (s : State) (b n : Nat) : List Byte :=
  match n with
  | 0 => []
  | k + 1 => bufByte s b :: bufBytesFrom s (b + 1) k

end Sys2Proof.Machine
end

