-- ==== Sys2Proof/Certificates/Slice0/Obligations.lean ====
section
/-!
DEFINITION. The statements about the machine. A move is put first with `State.queued`, so a statement about one agent's
step is a statement about `step`. `s.spi.rxbuf` in a statement about a frame is the byte the line carried, which every
open MISO bit keeps (entry 11).
-/

open Sys2Proof Sys2Proof.Machine

/-! ## Encodings -/

/-- Words written out from 30_encoding.md R60, R63 and R66, each decoding to the instruction it stands for. -/
def Obligations.DecodeOfWrittenWords : Prop :=
  decode (.cmd32 0x00000001) = .ok .bindTx ∧
  decode (.cmd32 0x00000010) = .ok .i2cInit ∧
  decode (.cmd32 0x00000011) = .ok (.i2cWrite false) ∧
  decode (.cmd32 0x00000111) = .ok (.i2cWrite true) ∧
  decode (.cmd32 0x00000025) = .ok .spiCsHigh ∧
  decode (.cmd32 0x00000033) = .ok .flashWrite ∧
  decode (.spiFrame [0xD8, 0x00, 0x12, 0x34]) = .ok (.frameSectorErase [0x00, 0x12, 0x34]) ∧
  decode (.spiFrame [0x05, 0x00, 0x00]) = .ok (.frameReadStatus [0x00, 0x00]) ∧
  decode (.cmd32 0x00000112) = .error (.stopNotAllowed 0x12) ∧
  decode (.cmd32 0x00000210) = .error (.reservedBits 1) ∧
  decode (.cmd32 0x00000000) = .error (.unknownOpcode 0x00)

/-- The decoder reads an instruction from a code exactly when the code is the instruction's own encoding: over all
command words and all frames, no bit is dropped and no other word is accepted (30_encoding.md R60, R63, R65, R66). -/
def Obligations.DecodeAgreesWithEncode : Prop := ∀ (c : Code) (i : Instr), decode c = .ok i ↔ encode i = c

/-- A write of a word to `CMD` while the engine is not frozen: an illegal word (R65) raises ILLEGAL_CMD and nothing
else; a word of the map of R63 with zero reserved bits, and STOP only with I2C_WRITE, is executed. -/
def Obligations.CommandWordsExecuteOrFault : Prop :=
  ∀ (w : Word) (s : State), s.fault = false →
    let opc := w.extractLsb' 0 8
    let legal := opc ∈ [0x01#8, 0x02, 0x10, 0x11, 0x12, 0x20, 0x21, 0x22, 0x23, 0x24, 0x25, 0x30, 0x31, 0x32, 0x33, 0x34] ∧
      w.extractLsb' 9 23 = 0 ∧ (w.getLsbD 8 = true → opc = 0x11)
    (legal → ∃ i, encode i = .cmd32 w ∧ step (s.queued (commandMove w)) = exec i s) ∧
    (¬ legal → step (s.queued (commandMove w)) = .next (faulted s 1))

/-! ## Steps -/

/-- When the next move is the host's write of a word to `CMD` and the word decodes, the step is the instruction's
execution; while frozen it changes nothing (R64, R143). -/
def Obligations.StepRunsTheCommandWord : Prop :=
  ∀ (s : State) (w : Word) (i : Instr) (rest : List Move),
    s.moves = .host { dir := .write, bits := 32, off := 0x000, data := w } :: rest → decode (.cmd32 w) = .ok i →
    (s.fault = false → step s = exec i { s with moves := rest }) ∧
    (s.fault = true → step s = .next { s with moves := rest })

/-- When the bytes the chip has received since chip select fell decode to a frame instruction, the step that clocks a byte
runs it, after the engine took the line's byte; and the completion of SPI_CS_HIGH runs it, after chip select rose (R52,
R112, R114; entry 13). -/
def Obligations.StepRunsTheFrame : Prop :=
  ∀ (s : State) (i : Instr) (rest : List Move),
    decode (.spiFrame s.dev.frame) = .ok i → s.fault = false → s.par.flash = .reference → s.cs = false →
    (∀ line, s.moves = .env (.spiShiftDone line) :: rest → s.arb.mode = .spi → s.spi.shifting = true →
      step s = exec i { s with
        moves := rest, spi := { s.spi with shifting := false, rxbuf := line, rxFull := true } }) ∧
    (s.moves = .seq .csHighFinish :: rest → s.op.opc = some .spiCsHigh → s.spi.txFull = false →
      s.spi.shifting = false → step s = exec i { s with moves := rest, op := { s.op with opc := none }, cs := true })

/-- How the model picks the next step (R10; entries 1 and 2, the model's choice): the first listed move, which does
nothing when its guard does not hold; with no move listed, one of a stream that nothing is known of. -/
def Obligations.StepTakesTheNextMove : Prop :=
  ∀ s : State,
    (∀ m rest, s.moves = m :: rest → step s = performMove m { s with moves := rest }) ∧
    (∀ m rest, s.moves = m :: rest → moveEnabled m { s with moves := rest } = false →
      step s = .next { s with moves := rest }) ∧
    (s.moves = [] → step s = performMove (Config.anyMove s.draws) { s with draws := s.draws + 1 })

/-! ## Commands -/

/-- BIND_TX and BIND_RX write one slot from `ADDR[1:0]`; code 3 is illegal (R74, R75). -/
def Obligations.BindCommandsWriteOneSlot : Prop :=
  ∀ s : State, ready s →
    (s.reg.addr.extractLsb' 0 2 = 0#2 →
      exec .bindTx s = .next { s with op := completed s, arb := { s.arb with tx := none } } ∧
      exec .bindRx s = .next { s with op := completed s, arb := { s.arb with rx := none } }) ∧
    (s.reg.addr.extractLsb' 0 2 = 1#2 →
      exec .bindTx s = .next { s with op := completed s, arb := { s.arb with tx := some .i2c } } ∧
      exec .bindRx s = .next { s with op := completed s, arb := { s.arb with rx := some .i2c } }) ∧
    (s.reg.addr.extractLsb' 0 2 = 2#2 →
      exec .bindTx s = .next { s with op := completed s, arb := { s.arb with tx := some .spi } } ∧
      exec .bindRx s = .next { s with op := completed s, arb := { s.arb with rx := some .spi } }) ∧
    (s.reg.addr.extractLsb' 0 2 = 3#2 →
      exec .bindTx s = .next (faulted s 1) ∧ exec .bindRx s = .next (faulted s 1))

/-- I2C_INIT takes the bus, sets the slave address and clears the engine (R86). -/
def Obligations.I2cInitTakesTheBus : Prop :=
  ∀ s : State, ready s → s.i2c.stopping = false → s.spi.txFull = false → s.spi.shifting = false →
    exec .i2cInit s = .next { s with
      op := completed s
      arb := { mode := .i2c, tx := some .i2c, rx := some .i2c }
      i2c := { s.i2c with
        sa := s.reg.addr.extractLsb' 0 7, phase := .idle, dir := .tx, rem := 0, cur := 0
        done := false, ackOk := false, sendStop := false, txie := false, rxie := false, nackie := false
        txifg := false, rxifg := false, nackifg := false, nacked := false, finalRx := false, held := false } }

/-- I2C_WRITE issues a start with the latched operands (R87), for every length, 0 included. -/
def Obligations.I2cWriteIssuesTheStart : Prop :=
  ∀ (s : State) (stop : Bool), ready s → s.arb = { mode := .i2c, tx := some .i2c, rx := some .i2c } →
    s.i2c.stopping = false → s.reg.buf.toNat + s.reg.len.toNat ≤ s.par.bufBytes →
    exec (.i2cWrite stop) s = .next { s with
      op := latched s .i2cWrite stop
      i2c := { s.i2c with
        done := false, ackOk := false, dir := .tx, rem := s.reg.len, cur := s.reg.buf, sendStop := stop
        txie := true, nackie := true, rxie := false, txifg := false, rxifg := false, nackifg := false
        nacked := false, finalRx := false, held := true, phase := .starting } }

/-- I2C_READ issues a start, and for a length of 1 the stop in the same step (R92, R100 (c)). -/
def Obligations.I2cReadIssuesTheStart : Prop :=
  ∀ s : State, ready s → s.arb = { mode := .i2c, tx := some .i2c, rx := some .i2c } →
    s.i2c.stopping = false → s.reg.len ≠ 0 → s.reg.buf.toNat + s.reg.len.toNat ≤ s.par.bufBytes →
    exec .i2cRead s = .next { s with
      op := latched s .i2cRead false
      i2c := { s.i2c with
        done := false, dir := .rx, rem := s.reg.len, cur := s.reg.buf, rxie := true, txie := false
        txifg := false, rxifg := false, nackifg := false, nacked := false, finalRx := false, held := true
        phase := .starting, stopping := decide (s.reg.len = 1) } }

/-- SPI_INIT and FLASH_INIT take the bus, clear the SPI engine and raise chip select (R103, R124). Where chip select was
high the flash chip is untouched; where it was low the chip acts on its frame (see ChipSelectEdgesAtTheChip). -/
def Obligations.SpiAndFlashInitTakeTheBus : Prop :=
  ∀ s : State, ready s → s.i2c.stopping = false → s.spi.txFull = false → s.spi.shifting = false →
    exec .spiInit s = .next { s with
      op := completed s
      arb := { mode := .spi, tx := some .spi, rx := some .spi }
      spi := { dir := .tx, rem := 0, cur := 0, done := false, mem := .buf, phase := .idle, txie := false
               rxie := false, txbuf := 0, txFull := false, shreg := 0, shifting := false, rxbuf := 0, rxFull := false }
      cs := true, dev := (csHigh s).dev, draws := (csHigh s).draws } ∧
    exec .flashInit s = .next { s with
      op := completed s
      arb := { mode := .spi, tx := some .spi, rx := some .spi }
      spi := { dir := .tx, rem := 0, cur := 0, done := false, mem := .buf, phase := .idle, txie := false
               rxie := false, txbuf := 0, txFull := false, shreg := 0, shifting := false, rxbuf := 0, rxFull := false }
      fl := { s.fl with prog := [], pc := 0, started := false }
      cs := true, dev := (csHigh s).dev, draws := (csHigh s).draws } ∧
    (s.cs = true → (csHigh s).dev = s.dev ∧ (csHigh s).draws = s.draws)

/-- SPI_WRITE and SPI_READ start a transfer over `bufmem` and wait for the datapath (R104, R105). -/
def Obligations.SpiTransfersStart : Prop :=
  ∀ s : State, ready s → s.arb = { mode := .spi, tx := some .spi, rx := some .spi } →
    s.reg.buf.toNat + s.reg.len.toNat ≤ s.par.bufBytes →
    exec .spiWrite s = .next { s with
      op := latched s .spiWrite false
      spi := { s.spi with
        done := false, rem := s.reg.len, cur := s.reg.buf, dir := .tx, mem := .buf, phase := .waitIdle } } ∧
    (s.reg.len ≠ 0 → exec .spiRead s = .next { s with
      op := latched s .spiRead false
      spi := { s.spi with
        done := false, rem := s.reg.len, cur := s.reg.buf, dir := .rx, mem := .buf, phase := .waitIdle } })

/-- SPI_BUSY latches the busy flag, whoever owns the bus (R110). -/
def Obligations.SpiBusyLatchesTheFlag : Prop :=
  ∀ s : State, ready s →
    exec .spiBusy s = .next { s with
      op := completed s, res := { s.res with spib := s.spi.txFull || s.spi.shifting } }

/-- SPI_CS_LOW lowers chip select at once: a fall opens a new frame at the chip, and where chip select is low already
the open frame goes on (R111, R52). SPI_CS_HIGH has no effect at its issue and stays live (R112). -/
def Obligations.ChipSelectCommandsIssue : Prop :=
  ∀ s : State, ready s → s.arb = { mode := .spi, tx := some .spi, rx := some .spi } →
    exec .spiCsHigh s = .next { s with op := latched s .spiCsHigh false } ∧
    (s.cs = false → exec .spiCsLow s = .next { s with op := completed s }) ∧
    (s.cs = true → s.par.flash = .reference →
      exec .spiCsLow s = .next { s with op := completed s, cs := false, dev := { s.dev with frame := [] } }) ∧
    (s.cs = true → s.par.flash = .unconstrained → exec .spiCsLow s = .next { s with op := completed s, cs := false })

/-- The four flash commands load their programs (R117, R125 to R128), the address bytes most significant first (R123). -/
def Obligations.FlashCommandsLoadTheirPrograms : Prop :=
  ∀ s : State, ready s → s.arb = { mode := .spi, tx := some .spi, rx := some .spi } →
    (s.reg.buf.toNat + 3 ≤ s.par.bufBytes →
      exec .flashReadId s = .next { s with
        op := latched s .flashReadId false
        fl := { s.fl with prog := [.csl, .txc 0x9F 1, .rxb s.reg.buf 3, .csh], pc := 0, started := false } }) ∧
    (s.reg.len ≠ 0 → s.reg.buf.toNat + s.reg.len.toNat ≤ s.par.bufBytes →
      exec .flashRead s = .next { s with
        op := latched s .flashRead false
        fl := { s.fl with
          hdr := { b0 := s.fl.hdr.b0, b1 := s.reg.addr.extractLsb' 16 8, b2 := s.reg.addr.extractLsb' 8 8
                   b3 := s.reg.addr.extractLsb' 0 8 }
          prog := [.csl, .txc 0x03 4, .rxb s.reg.buf s.reg.len, .csh], pc := 0, started := false } }) ∧
    (s.reg.buf.toNat + s.reg.len.toNat ≤ s.par.bufBytes →
      exec .flashWrite s = .next { s with
        op := latched s .flashWrite false
        fl := { s.fl with
          hdr := { b0 := s.fl.hdr.b0, b1 := s.reg.addr.extractLsb' 16 8, b2 := s.reg.addr.extractLsb' 8 8
                   b3 := s.reg.addr.extractLsb' 0 8 }
          prog := [.csl, .txc 0x06 1, .csh, .csl, .txc 0xD8 4, .csh, .delay, .csl, .txc 0x06 1, .csh,
                   .csl, .txc 0x02 4, .txb s.reg.buf s.reg.len, .csh]
          pc := 0, started := false } }) ∧
    exec .flashBusy s = .next { s with
      op := latched s .flashBusy false
      fl := { s.fl with prog := [.csl, .txc 0x05 1, .rxs, .csh], pc := 0, started := false } }

/-! ## Faults at issue -/

/-- A command issued while an operation is live (R136). -/
def Obligations.CommandWhileLiveFaults : Prop :=
  ∀ (s : State) (w : Word) (i : Instr), decode (.cmd32 w) = .ok i → s.fault = false → s.op.opc ≠ none →
    step (s.queued (commandMove w)) = .next (faulted s 2)

/-- A transfer command of an engine that does not own the bus: the mode line and both slots must name it (R82, R137). -/
def Obligations.TransferWithoutOwnershipFaults : Prop :=
  ∀ s : State, ready s →
    (¬ (s.arb.mode = .i2c ∧ s.arb.tx = some .i2c ∧ s.arb.rx = some .i2c) →
      ∀ i ∈ [Instr.i2cWrite false, .i2cWrite true, .i2cRead], exec i s = .next (faulted s 3)) ∧
    (¬ (s.arb.mode = .spi ∧ s.arb.tx = some .spi ∧ s.arb.rx = some .spi) →
      ∀ i ∈ [Instr.spiWrite, .spiRead, .spiCsLow, .spiCsHigh, .flashReadId, .flashRead, .flashWrite, .flashBusy],
        exec i s = .next (faulted s 3))

/-- A read of length 0 (R138), once the checks before it in R134's order pass. -/
def Obligations.ReadOfLengthZeroFaults : Prop :=
  ∀ s : State, ready s → s.reg.len = 0 →
    (s.arb = { mode := .i2c, tx := some .i2c, rx := some .i2c } → s.i2c.stopping = false →
      exec .i2cRead s = .next (faulted s 4)) ∧
    (s.arb = { mode := .spi, tx := some .spi, rx := some .spi } →
      exec .spiRead s = .next (faulted s 4) ∧ exec .flashRead s = .next (faulted s 4))

/-- A buffer outside `bufmem`, the sum computed exactly (R139), once the checks before it in R134's order pass. -/
def Obligations.BufferOutsideMemoryFaults : Prop :=
  ∀ s : State, ready s →
    (s.par.bufBytes < s.reg.buf.toNat + s.reg.len.toNat →
      (s.arb = { mode := .i2c, tx := some .i2c, rx := some .i2c } → s.i2c.stopping = false →
        (∀ stop, exec (.i2cWrite stop) s = .next (faulted s 5)) ∧
        (s.reg.len ≠ 0 → exec .i2cRead s = .next (faulted s 5))) ∧
      (s.arb = { mode := .spi, tx := some .spi, rx := some .spi } →
        exec .spiWrite s = .next (faulted s 5) ∧ exec .flashWrite s = .next (faulted s 5) ∧
        (s.reg.len ≠ 0 → exec .spiRead s = .next (faulted s 5) ∧ exec .flashRead s = .next (faulted s 5)))) ∧
    (s.par.bufBytes < s.reg.buf.toNat + 3 → s.arb = { mode := .spi, tx := some .spi, rx := some .spi } →
      exec .flashReadId s = .next (faulted s 5))

/-- An I2C transfer issued before the last stop completed (R140). -/
def Obligations.TransferBeforeStopFaults : Prop :=
  ∀ s : State, ready s → s.arb = { mode := .i2c, tx := some .i2c, rx := some .i2c } → s.i2c.stopping = true →
    (∀ stop, exec (.i2cWrite stop) s = .next (faulted s 6)) ∧ exec .i2cRead s = .next (faulted s 6)

/-- An init issued into live bus activity (R141). -/
def Obligations.InitIntoBusActivityFaults : Prop :=
  ∀ s : State, ready s → (s.i2c.stopping = true ∨ s.spi.txFull = true ∨ s.spi.shifting = true) →
    exec .i2cInit s = .next (faulted s 7) ∧ exec .spiInit s = .next (faulted s 7) ∧
    exec .flashInit s = .next (faulted s 7)

/-! ## The flash chip -/

/-- Read identification (R53): byte `k` of the frame answers FLASH_ID[k-1] for `k` in 1..3 and any value after; a busy
chip answers any value (R52). When chip select has risen the frame is dropped. That `wip` is judged at this byte, so that a
chip no longer busy answers in a frame begun while it was, is the model's choice (entry 26): R52 speaks of whole frames. -/
def Obligations.ReadIdFrameAnswers : Prop :=
  ∀ (s : State) (tail : List Byte),
    (s.cs = false → exec (.frameReadId tail) s = .next { s with
      spi := { s.spi with
        rxbuf := if s.dev.wip = false ∧ tail.length + 1 ≤ 3 then Config.flashId tail.length else s.spi.rxbuf }
      dev := { s.dev with frame := s.dev.frame ++ [s.spi.shreg] } }) ∧
    (s.cs = true → exec (.frameReadId tail) s = .next { s with dev := { s.dev with frame := [] } })

/-- Read status register (R54): every byte after the command carries `wip` at bit 0 and `wel` at bit 1, busy or not (R52);
the other bits are any value. -/
def Obligations.ReadStatusFrameAnswers : Prop :=
  ∀ (s : State) (tail : List Byte),
    (s.cs = false → ∃ v : Byte,
      exec (.frameReadStatus tail) s = .next { s with
        spi := { s.spi with rxbuf := v }, dev := { s.dev with frame := s.dev.frame ++ [s.spi.shreg] } } ∧
      v.getLsbD 0 = s.dev.wip ∧ v.getLsbD 1 = s.dev.wel ∧
      ∀ i, 2 ≤ i → v.getLsbD i = s.spi.rxbuf.getLsbD i) ∧
    (s.cs = true → exec (.frameReadStatus tail) s = .next { s with dev := { s.dev with frame := [] } })

/-- Page read (R55): the three address bytes, then, with PAGE_READ, one stale byte and `M[(A + k - 5) mod 2^24]` at byte
`k`, with ALL_READS `M[(A + k - 4) mod 2^24]`; a busy chip answers any value (R52). That `wip` is judged at this
byte, so that a chip no longer busy answers in a frame begun while it was, is the model's choice (entry 26): R52 speaks of
whole frames. -/
def Obligations.PageReadFrameAnswers : Prop :=
  ∀ s : State,
    (s.cs = false → ∀ tail : List Byte, tail.length < 3 ∨ s.dev.wip = true →
      exec (.frameRead tail) s = .next { s with dev := { s.dev with frame := s.dev.frame ++ [s.spi.shreg] } }) ∧
    (s.cs = false → s.dev.wip = false → ∀ (a2 a1 a0 : Byte) (rest : List Byte),
      let A := (a2 ++ a1 ++ a0).toNat
      let k := rest.length + 4
      exec (.frameRead (a2 :: a1 :: a0 :: rest)) s = .next { s with
        spi := { s.spi with
          rxbuf :=
            match s.par.staleScope with
            | .pageRead => if k = 4 then s.spi.rxbuf else flashByte s.dev ((A + k - 5) % 2 ^ 24)
            | .allReads => flashByte s.dev ((A + k - 4) % 2 ^ 24) }
        dev := { s.dev with frame := s.dev.frame ++ [s.spi.shreg] } }) ∧
    (s.cs = true → ∀ tail, exec (.frameRead tail) s = .next { s with dev := { s.dev with frame := [] } })

/-- Write enable (R56): the latch is set when chip select rises on the command byte alone and the chip is not busy; a
longer frame is ignored. -/
def Obligations.WriteEnableFrameSetsTheLatch : Prop :=
  ∀ (s : State) (tail : List Byte),
    (s.cs = true → tail = [] → s.dev.wip = false →
      exec (.frameWriteEnable tail) s = .next { s with dev := { s.dev with wel := true, frame := [] } }) ∧
    (s.cs = true → tail ≠ [] ∨ s.dev.wip = true →
      exec (.frameWriteEnable tail) s = .next { s with dev := { s.dev with frame := [] } }) ∧
    (s.cs = false →
      exec (.frameWriteEnable tail) s = .next { s with dev := { s.dev with frame := s.dev.frame ++ [s.spi.shreg] } })

/-- Sector erase (R57): every byte of the aligned sector of the address becomes 0xFF, no other byte changes, `wel` is
cleared and `wip` set; otherwise the frame is ignored. -/
def Obligations.SectorEraseFrameErases : Prop :=
  ∀ s : State,
    (s.cs = true → s.dev.wel = true → s.dev.wip = false → ∀ a2 a1 a0 : Byte,
      let A := (a2 ++ a1 ++ a0).toNat
      let S := A - A % 65536
      ∃ d : FlashChip, exec (.frameSectorErase [a2, a1, a0]) s = .next { s with dev := d } ∧
        d.wel = false ∧ d.wip = true ∧ d.frame = [] ∧
        (∀ j, j < 65536 → flashByte d (S + j) = 0xFF) ∧
        ∀ x, x < S ∨ S + 65536 ≤ x → flashByte d x = flashByte s.dev x) ∧
    (s.cs = true → ∀ tail : List Byte, tail.length ≠ 3 ∨ s.dev.wel = false ∨ s.dev.wip = true →
      exec (.frameSectorErase tail) s = .next { s with dev := { s.dev with frame := [] } }) ∧
    (s.cs = false → ∀ tail, exec (.frameSectorErase tail) s = .next { s with
      dev := { s.dev with frame := s.dev.frame ++ [s.spi.shreg] } })

/-- Page program (R58): payload byte `j` is ANDed into the byte at `P + (A mod 256 + j) mod 256`, and no other byte
changes; a payload of more than a page leaves no byte outside the page changed; then `wel` is cleared and `wip` set;
otherwise the frame is ignored. -/
def Obligations.PageProgramFramePrograms : Prop :=
  ∀ s : State,
    (s.cs = true → s.dev.wel = true → s.dev.wip = false → ∀ (a2 a1 a0 : Byte) (d : List Byte),
      let A := (a2 ++ a1 ++ a0).toNat
      let P := A - A % 256
      (d.length ≤ 256 →
        ∃ c : FlashChip, exec (.framePageProgram (a2 :: a1 :: a0 :: d)) s = .next { s with dev := c } ∧
          c.wel = false ∧ c.wip = true ∧ c.frame = [] ∧
          (∀ j v, d[j]? = some v →
            flashByte c (P + (A % 256 + j) % 256) = flashByte s.dev (P + (A % 256 + j) % 256) &&& v) ∧
          ∀ x, (∀ j, j < d.length → x ≠ P + (A % 256 + j) % 256) → flashByte c x = flashByte s.dev x) ∧
      (256 < d.length →
        ∃ (c : FlashChip) (n : Nat),
          exec (.framePageProgram (a2 :: a1 :: a0 :: d)) s = .next { s with dev := c, draws := n } ∧
          c.wel = false ∧ c.wip = true ∧ c.frame = [] ∧
          ∀ x, x < P ∨ P + 256 ≤ x → flashByte c x = flashByte s.dev x)) ∧
    (s.cs = true → ∀ tail : List Byte, tail.length < 3 ∨ s.dev.wel = false ∨ s.dev.wip = true →
      exec (.framePageProgram tail) s = .next { s with dev := { s.dev with frame := [] } }) ∧
    (s.cs = false → ∀ tail, exec (.framePageProgram tail) s = .next { s with
      dev := { s.dev with frame := s.dev.frame ++ [s.spi.shreg] } })

/-- The chip at the edges of chip select (R52, R59): a fall opens an empty frame; a rise runs the frame the bytes decode
to and drops any other; where the level does not change there is no edge; with no contract the chip is not followed. -/
def Obligations.ChipSelectEdgesAtTheChip : Prop :=
  ∀ s : State,
    (s.cs = true → csHigh s = s) ∧
    (s.cs = false → csLow s = s) ∧
    (s.cs = true → s.par.flash = .reference → csLow s = { s with cs := false, dev := { s.dev with frame := [] } }) ∧
    (s.cs = false → s.par.flash = .reference → ∀ i, decode (.spiFrame s.dev.frame) = .ok i →
      exec i { s with cs := true } = .next (csHigh s)) ∧
    (s.cs = false → s.par.flash = .reference → ∀ e, decode (.spiFrame s.dev.frame) = .error e →
      csHigh s = { s with cs := true, dev := { s.dev with frame := [] } }) ∧
    (s.par.flash = .unconstrained → csLow s = { s with cs := false } ∧ csHigh s = { s with cs := true })

/-- The chip's own events: completion clears `wip`, in a frozen engine too (R59, R143); a power cycle keeps every byte of
`M` (R52; that it can happen between any two steps and what the latches come up as is the model's choice, entry 21). -/
def Obligations.FlashChipEvents : Prop :=
  ∀ s : State,
    (s.dev.wip = true →
      step (s.queued (.env .flashReady)) = .next { s with dev := { s.dev with wip := false } }) ∧
    (s.dev.wip = false → step (s.queued (.env .flashReady)) = .next s) ∧
    ∀ wel wip, ∃ d : FlashChip, step (s.queued (.env (.flashPowerCycle wel wip))) = .next { s with dev := d } ∧
      ∀ x, flashByte d x = flashByte s.dev x

/-! ## Handlers -/

/-- The memory primitives the handlers use (R36): `bufmem`, the four header bytes, the status byte, one byte at a time. -/
def Obligations.MemoryPrimitivesMoveOneByte : Prop :=
  ∀ (s : State) (i : Nat) (v : Byte),
    (i < s.par.bufBytes →
      srcRead .buf i s = .ok (bufByte s i) ∧
      ∃ t, dstWrite .buf i v s = .ok t ∧ t = { s with bufmem := t.bufmem } ∧ bufByte t i = v ∧
        ∀ x, x ≠ i → bufByte t x = bufByte s x) ∧
    (srcRead .hdr 0 s = .ok s.fl.hdr.b0 ∧ srcRead .hdr 1 s = .ok s.fl.hdr.b1 ∧
      srcRead .hdr 2 s = .ok s.fl.hdr.b2 ∧ srcRead .hdr 3 s = .ok s.fl.hdr.b3) ∧
    (dstWrite .hdr 0 v s = .ok { s with fl := { s.fl with hdr := { s.fl.hdr with b0 := v } } } ∧
      dstWrite .hdr 1 v s = .ok { s with fl := { s.fl with hdr := { s.fl.hdr with b1 := v } } } ∧
      dstWrite .hdr 2 v s = .ok { s with fl := { s.fl with hdr := { s.fl.hdr with b2 := v } } } ∧
      dstWrite .hdr 3 v s = .ok { s with fl := { s.fl with hdr := { s.fl.hdr with b3 := v } } }) ∧
    srcRead .sr 0 s = .ok s.fl.sr ∧ dstWrite .sr 0 v s = .ok { s with fl := { s.fl with sr := v } }

/-- The I2C transmit handler (R88): it loads the next byte, or with none left marks success and completion. In a sound state
it runs only while transmitting and its cursor is in range. -/
def Obligations.I2cTransmitHandlerRuns : Prop :=
  ∀ s : State, s.i2c.txifg = true → s.i2c.txie = true → s.arb.tx = some .i2c → s.fault = false →
    (s.i2c.rem = 0 → step (s.queued (.isr .i2cTx)) =
      .next { s with i2c := { s.i2c with ackOk := true, done := true, txie := false } }) ∧
    (s.i2c.rem ≠ 0 → s.i2c.cur.toNat < s.par.bufBytes → step (s.queued (.isr .i2cTx)) =
      .next { s with
        i2c := { s.i2c with
          txdata := bufByte s s.i2c.cur.toNat, txifg := false, cur := s.i2c.cur + 1, rem := s.i2c.rem - 1 } }) ∧
    (Sound s → s.i2c.phase = .transmitting ∧ (s.i2c.rem ≠ 0 → s.i2c.cur.toNat < s.par.bufBytes))

/-- The NACK handler (R89): completion without success. -/
def Obligations.I2cNackHandlerRuns : Prop :=
  ∀ s : State, s.i2c.nackifg = true → s.i2c.nackie = true → s.arb.rx = some .i2c → s.fault = false →
    step (s.queued (.isr .i2cNack)) =
      .next { s with i2c := { s.i2c with nackifg := false, done := true, phase := .ackFailed } }

/-- The I2C receive handler (R93): it stores the byte at the cursor and nowhere else; the last byte marks completion; with
one byte left the stop is issued. In a sound state it runs only while receiving, with a byte left, and its cursor is in
range. -/
def Obligations.I2cReceiveHandlerRuns : Prop :=
  ∀ s : State, s.i2c.rxifg = true → s.i2c.rxie = true → s.arb.rx = some .i2c → s.fault = false →
    (s.i2c.cur.toNat < s.par.bufBytes →
      ∃ t, step (s.queued (.isr .i2cRx)) = .next t ∧
        t = { s with
          bufmem := t.bufmem
          i2c :=
            if s.i2c.rem - 1 = 0 then { s.i2c with rxifg := false, rem := s.i2c.rem - 1, done := true }
            else if s.i2c.rem - 1 = 1 then
              { s.i2c with rxifg := false, rem := s.i2c.rem - 1, cur := s.i2c.cur + 1, stopping := true }
            else { s.i2c with rxifg := false, rem := s.i2c.rem - 1, cur := s.i2c.cur + 1 } } ∧
        bufByte t s.i2c.cur.toNat = s.i2c.rxbuf ∧
        ∀ x, x ≠ s.i2c.cur.toNat → bufByte t x = bufByte s x) ∧
    (Sound s → s.i2c.phase = .receiving ∧ s.i2c.rem ≠ 0 ∧ s.i2c.cur.toNat < s.par.bufBytes)

/-- The SPI transmit handler (R107): it loads the byte `SrcRead` gives, or with none left marks completion. In a sound
state it runs only in a transmitting transfer and its cursor is in range. -/
def Obligations.SpiTransmitHandlerRuns : Prop :=
  ∀ s : State, s.spi.txFull = false → s.spi.txie = true → s.arb.tx = some .spi → s.fault = false →
    (s.spi.rem = 0 → step (s.queued (.isr .spiTx)) =
      .next { s with spi := { s.spi with done := true, txie := false } }) ∧
    (s.spi.rem ≠ 0 → ∀ v, srcRead s.spi.mem s.spi.cur.toNat s = .ok v → step (s.queued (.isr .spiTx)) =
      .next { s with
        spi := { s.spi with txbuf := v, txFull := true, cur := s.spi.cur + 1, rem := s.spi.rem - 1 } }) ∧
    (Sound s → s.spi.phase = .transferring ∧ s.spi.dir = .tx ∧
      (s.spi.rem ≠ 0 → ∃ v, srcRead s.spi.mem s.spi.cur.toNat s = .ok v))

/-- The SPI receive handler (R108): it stores the byte by `DstWrite`, writes the dummy 0x00, and with the last byte marks
completion and disables itself. In a sound state it runs only in a receiving transfer with a byte left and its cursor is in
range. -/
def Obligations.SpiReceiveHandlerRuns : Prop :=
  ∀ s : State, s.spi.rxFull = true → s.spi.rxie = true → s.arb.rx = some .spi → s.fault = false →
    (∀ t, dstWrite s.spi.mem s.spi.cur.toNat s.spi.rxbuf s = .ok t →
      (s.spi.rem - 1 = 0 → step (s.queued (.isr .spiRx)) =
        .next { t with
          spi := { s.spi with
            rxFull := false, txbuf := 0, txFull := true, rem := 0, done := true, rxie := false } }) ∧
      (s.spi.rem - 1 ≠ 0 → step (s.queued (.isr .spiRx)) =
        .next { t with
          spi := { s.spi with
            rxFull := false, txbuf := 0, txFull := true, rem := s.spi.rem - 1, cur := s.spi.cur + 1 } })) ∧
    (Sound s → s.spi.phase = .transferring ∧ s.spi.dir = .rx ∧ s.spi.rem ≠ 0 ∧
      ∃ t, dstWrite s.spi.mem s.spi.cur.toNat s.spi.rxbuf s = .ok t)

/-- Dispatch (R77, R78, R79): on an unbound vector nothing happens and the flag stays; on a vector bound to the other engine
MODE_MISMATCH is raised; a source that is not pending and enabled runs nothing. -/
def Obligations.DispatchFollowsTheVectors : Prop :=
  ∀ (s : State) (src : Source), s.fault = false →
    (sourcePending src s = false → step (s.queued (.isr src)) = .next s) ∧
    (sourcePending src s = true → sourceSlot src s = none → step (s.queued (.isr src)) = .next s) ∧
    (sourcePending src s = true → ∀ e, sourceSlot src s = some e → e ≠ sourceEngine src →
      step (s.queued (.isr src)) = .next (faulted s 3)) ∧
    (sourcePending src s = true → sourceSlot src s = some (sourceEngine src) →
      step (s.queued (.isr src)) = runHandler src s)

/-! ## Sequencer steps -/

/-- The write continuation, the write finish and the read finish, each with its guard (R90, R91, R94). -/
def Obligations.I2cSequencerSteps : Prop :=
  ∀ s : State,
    step (s.queued (.seq .i2cWriteCont)) = .next (
      if s.op.opc = some .i2cWrite ∧ s.i2c.done = true ∧
          (s.i2c.phase = .transmitting ∨ s.i2c.phase = .ackFailed) ∧ s.fault = false then
        if s.i2c.sendStop = true then { s with i2c := { s.i2c with stopping := true, phase := .awaitingStop } }
        else { s with
          i2c := { s.i2c with phase := .idle }, res := { s.res with nack := !s.i2c.ackOk }
          op := { s.op with opc := none } }
      else s) ∧
    step (s.queued (.seq .i2cWriteFinish)) = .next (
      if s.op.opc = some .i2cWrite ∧ s.i2c.phase = .awaitingStop ∧ s.i2c.stopping = false ∧ s.fault = false then
        { s with
          i2c := { s.i2c with phase := .idle }, res := { s.res with nack := !s.i2c.ackOk }
          op := { s.op with opc := none } }
      else s) ∧
    step (s.queued (.seq .i2cReadFinish)) = .next (
      if s.op.opc = some .i2cRead ∧ s.i2c.done = true ∧
          (s.i2c.phase = .receiving ∨ s.i2c.phase = .ackFailed) ∧ s.fault = false then
        { s with i2c := { s.i2c with phase := .idle }, op := { s.op with opc := none } }
      else s)

/-- The go step, the finish step and the completion of SPI_CS_HIGH, each with its guard (R106, R109, R112); at the rise of
chip select the chip acts on its frame (R52). -/
def Obligations.SpiSequencerSteps : Prop :=
  ∀ s : State,
    step (s.queued (.seq .spiGo)) = .next (
      if s.spi.phase = .waitIdle ∧ s.spi.txFull = false ∧ s.spi.shifting = false ∧ s.fault = false then
        match s.spi.dir, s.par.staleScope with
        | .tx, _ => { s with spi := { s.spi with phase := .transferring, txie := true } }
        | .rx, .pageRead => { s with
            spi := { s.spi with phase := .transferring, rxie := true, rxFull := false, txbuf := 0, txFull := true } }
        | .rx, .allReads => { s with
            spi := { s.spi with phase := .transferring, rxie := true, txbuf := 0, txFull := true } }
      else s) ∧
    step (s.queued (.seq .spiFinish)) = .next (
      if s.spi.phase = .transferring ∧ s.spi.done = true ∧ s.fault = false then
        if s.op.opc = some .spiWrite ∨ s.op.opc = some .spiRead then
          { s with spi := { s.spi with phase := .idle }, op := { s.op with opc := none } }
        else { s with spi := { s.spi with phase := .idle } }
      else s) ∧
    step (s.queued (.seq .csHighFinish)) = .next (
      if s.op.opc = some .spiCsHigh ∧ s.spi.txFull = false ∧ s.spi.shifting = false ∧ s.fault = false then
        { s with
          op := { s.op with opc := none }, cs := true, dev := (csHigh s).dev, draws := (csHigh s).draws }
      else s)

/-- The flash sequencer's step, action by action (R116, R118, R119, R120, R122): chip select, the start of a transfer, its
end, and the waits. -/
def Obligations.FlashSequencerSteps : Prop :=
  ∀ (s : State) (a : Action), s.fault = false →
    (s.op.opc = some .flashReadId ∨ s.op.opc = some .flashRead ∨ s.op.opc = some .flashWrite ∨
      s.op.opc = some .flashBusy) →
    s.fl.prog[s.fl.pc]? = some a →
    let go := step (s.queued (.seq .flashStep))
    (a = .csl → go = .next { s with
      cs := false, dev := (csLow s).dev, fl := { s.fl with pc := s.fl.pc + 1 } }) ∧
    (a = .csh → s.spi.txFull = false → s.spi.shifting = false → go = .next { s with
      cs := true, dev := (csHigh s).dev, draws := (csHigh s).draws, fl := { s.fl with pc := s.fl.pc + 1 } }) ∧
    (a = .csh → s.spi.txFull = true ∨ s.spi.shifting = true → go = .next s) ∧
    (a = .delay → go = .next s) ∧
    (s.fl.started = false → ∀ c k, a = .txc c k → go = .next { s with
      spi := { s.spi with done := false, rem := k, cur := 0, dir := .tx, mem := .hdr, phase := .waitIdle }
      fl := { s.fl with hdr := { s.fl.hdr with b0 := c }, started := true } }) ∧
    (s.fl.started = false → ∀ b n, a = .txb b n → go = .next { s with
      spi := { s.spi with done := false, rem := n, cur := b, dir := .tx, mem := .buf, phase := .waitIdle }
      fl := { s.fl with started := true } }) ∧
    (s.fl.started = false → ∀ b n, a = .rxb b n → go = .next { s with
      spi := { s.spi with done := false, rem := n, cur := b, dir := .rx, mem := .buf, phase := .waitIdle }
      fl := { s.fl with started := true } }) ∧
    (s.fl.started = false → a = .rxs → go = .next { s with
      spi := { s.spi with done := false, rem := 1, cur := 0, dir := .rx, mem := .sr, phase := .waitIdle }
      fl := { s.fl with started := true } }) ∧
    (s.fl.started = true → transferAction a = true → go = .next (
      if s.spi.phase = .idle then { s with fl := { s.fl with started := false, pc := s.fl.pc + 1 } } else s))

/-- The end of the erase delay (R121) and the completion of a flash command (R129), each with its guard. -/
def Obligations.EraseDelayAndFlashCompletion : Prop :=
  ∀ s : State,
    step (s.queued (.env .eraseDelay)) = .next (
      if s.op.opc = some .flashWrite ∧ s.fl.prog[s.fl.pc]? = some .delay ∧ s.fault = false ∧
          (s.par.eraseFits = true → s.dev.wip = false) then
        { s with fl := { s.fl with pc := s.fl.pc + 1 } }
      else s) ∧
    step (s.queued (.seq .flashFinish)) = .next (
      if (s.op.opc = some .flashReadId ∨ s.op.opc = some .flashRead ∨ s.op.opc = some .flashWrite ∨
            s.op.opc = some .flashBusy) ∧
          s.fl.pc = s.fl.prog.length ∧ s.fl.prog ≠ [] ∧ s.fault = false then
        { s with
          res := { s.res with
            wip := if s.op.opc = some .flashBusy then s.fl.sr.getLsbD 0 else s.res.wip }
          fl := { s.fl with prog := [], pc := 0, started := false }
          op := { s.op with opc := none } }
      else s)

/-! ## Bus events -/

/-- The four events of the I2C bus, each with its guard (R95 to R98). -/
def Obligations.I2cBusEvents : Prop :=
  ∀ s : State,
    step (s.queued (.env .i2cTxRdy)) = .next (
      if s.arb.mode = .i2c ∧ s.fault = false ∧ s.i2c.dir = .tx ∧
          (s.i2c.phase = .starting ∨ s.i2c.phase = .transmitting) ∧
          s.i2c.txifg = false ∧ s.i2c.nacked = false ∧ s.i2c.done = false then
        { s with i2c := { s.i2c with txifg := true, phase := .transmitting } }
      else s) ∧
    step (s.queued (.env .i2cNack)) = .next (
      if s.arb.mode = .i2c ∧ s.fault = false ∧ s.i2c.nacked = false ∧ s.i2c.done = false ∧
          ((s.i2c.dir = .tx ∧ (s.i2c.phase = .starting ∨ s.i2c.phase = .transmitting) ∧ s.i2c.txifg = false) ∨
           (s.i2c.dir = .rx ∧ s.i2c.phase = .starting ∧ s.i2c.rxifg = false)) then
        { s with i2c := { s.i2c with nackifg := true, nacked := true } }
      else s) ∧
    (∀ v, step (s.queued (.env (.i2cRxByte v))) = .next (
      if s.arb.mode = .i2c ∧ s.fault = false ∧ s.i2c.dir = .rx ∧
          (s.i2c.phase = .starting ∨ s.i2c.phase = .receiving) ∧
          s.i2c.rxifg = false ∧ s.i2c.nacked = false ∧ s.i2c.finalRx = false ∧ s.i2c.done = false then
        { s with
          i2c := { s.i2c with rxbuf := v, rxifg := true, phase := .receiving, finalRx := s.i2c.stopping } }
      else s)) ∧
    step (s.queued (.env .i2cStopDone)) = .next (
      if s.arb.mode = .i2c ∧ s.fault = false ∧ s.i2c.stopping = true ∧
          (s.i2c.dir = .tx ∨ s.i2c.finalRx = true ∨ s.i2c.nacked = true) then
        { s with i2c := { s.i2c with stopping := false, held := false } }
      else s)

/-- The two events of the SPI clock, each with its guard (R113, R114). With chip select high, with no contract, or for the
first byte of a frame, the byte received is the line's; the chip takes the MOSI byte only while selected (R52). -/
def Obligations.SpiClockEvents : Prop :=
  ∀ s : State,
    step (s.queued (.env .spiLoad)) = .next (
      if s.arb.mode = .spi ∧ s.fault = false ∧ s.spi.txFull = true ∧ s.spi.shifting = false then
        { s with spi := { s.spi with shreg := s.spi.txbuf, txFull := false, shifting := true } }
      else s) ∧
    (∀ v, ¬ (s.arb.mode = .spi ∧ s.fault = false ∧ s.spi.shifting = true) →
      step (s.queued (.env (.spiShiftDone v))) = .next s) ∧
    (∀ v, s.arb.mode = .spi → s.fault = false → s.spi.shifting = true →
      (s.cs = true ∨ s.par.flash = .unconstrained → step (s.queued (.env (.spiShiftDone v))) =
        .next { s with spi := { s.spi with shifting := false, rxbuf := v, rxFull := true } }) ∧
      (s.cs = false → s.par.flash = .reference → s.dev.frame = [] →
        step (s.queued (.env (.spiShiftDone v))) = .next { s with
          spi := { s.spi with shifting := false, rxbuf := v, rxFull := true }
          dev := { s.dev with frame := [s.spi.shreg] } }) ∧
      (s.cs = false → s.par.flash = .reference → ∃ r,
        step (s.queued (.env (.spiShiftDone v))) = .next { s with
          spi := { s.spi with shifting := false, rxbuf := r, rxFull := true }
          dev := { s.dev with frame := s.dev.frame ++ [s.spi.shreg] } }))

/-! ## The host -/

/-- The frozen engine (R143): no command, no sequencer step, no handler and no engine event has an effect; the writes of BUF,
LEN and ADDR still store. -/
def Obligations.FrozenEngineStandsStill : Prop :=
  ∀ s : State, s.fault = true →
    (∀ w, step (s.queued (commandMove w)) = .next s) ∧
    (∀ k, step (s.queued (.seq k)) = .next s) ∧
    (∀ src, step (s.queued (.isr src)) = .next s) ∧
    (∀ v, ∀ e ∈ [EnvEvent.i2cTxRdy, .i2cNack, .i2cRxByte v, .i2cStopDone, .spiLoad, .spiShiftDone v, .eraseDelay],
      step (s.queued (.env e)) = .next s) ∧
    (∀ w, step (s.queued (.host { dir := .write, bits := 32, off := 0x004, data := w })) =
        .next { s with reg := { s.reg with buf := w.extractLsb' 0 16 } } ∧
      step (s.queued (.host { dir := .write, bits := 32, off := 0x008, data := w })) =
        .next { s with reg := { s.reg with len := w.extractLsb' 0 16 } } ∧
      step (s.queued (.host { dir := .write, bits := 32, off := 0x00C, data := w })) =
        .next { s with reg := { s.reg with addr := w.extractLsb' 0 24 } })

/-- The registers the host reads and writes (R14 to R17, R19, R39), in every state: the implemented bits are stored and
read back with zeros above; `SLAVE` ignores writes; `CMD` reads 0; a read changes nothing. -/
def Obligations.HostRegistersReadAndWrite : Prop :=
  ∀ (s : State) (w : Word),
    let rd := fun off => step (s.queued (.host { dir := .read, bits := 32, off := off, data := w }))
    let wr := fun off => step (s.queued (.host { dir := .write, bits := 32, off := off, data := w }))
    rd 0x000 = .next { s with rdata := some 0 } ∧
    rd 0x004 = .next { s with rdata := some (s.reg.buf.setWidth 32) } ∧
    rd 0x008 = .next { s with rdata := some (s.reg.len.setWidth 32) } ∧
    rd 0x00C = .next { s with rdata := some (s.reg.addr.setWidth 32) } ∧
    rd 0x014 = .next { s with rdata := some (s.i2c.sa.setWidth 32) } ∧
    wr 0x004 = .next { s with reg := { s.reg with buf := w.extractLsb' 0 16 } } ∧
    wr 0x008 = .next { s with reg := { s.reg with len := w.extractLsb' 0 16 } } ∧
    wr 0x00C = .next { s with reg := { s.reg with addr := w.extractLsb' 0 24 } } ∧
    wr 0x014 = .next s

/-- STATUS, bit by bit (R18): what a read returns, that a write is ignored, and the value after reset. -/
def Obligations.StatusBitsOfTheState : Prop :=
  (∀ (s : State) (w : Word),
    step (s.queued (.host { dir := .write, bits := 32, off := 0x010, data := w })) = .next s ∧
    ∃ v : Word, step (s.queued (.host { dir := .read, bits := 32, off := 0x010, data := w })) =
        .next { s with rdata := some v } ∧
      v.getLsbD 0 = decide (s.op.opc ≠ none) ∧ v.getLsbD 1 = s.res.nack ∧ v.getLsbD 2 = s.res.spib ∧
      v.getLsbD 3 = s.res.wip ∧ v.getLsbD 4 = (s.spi.txFull || s.spi.shifting) ∧ v.getLsbD 5 = s.i2c.stopping ∧
      v.getLsbD 6 = decide (s.arb.mode = .spi) ∧ v.getLsbD 7 = s.cs ∧
      v.extractLsb' 8 2 = (match s.arb.tx with | none => 0#2 | some .i2c => 1#2 | some .spi => 2#2) ∧
      v.extractLsb' 10 2 = (match s.arb.rx with | none => 0#2 | some .i2c => 1#2 | some .spi => 2#2) ∧
      v.getLsbD 12 = s.i2c.held ∧ v.extractLsb' 13 3 = 0#3 ∧ v.getLsbD 16 = s.fault ∧ v.extractLsb' 17 3 = 0#3 ∧
      v.extractLsb' 20 4 = s.fcode ∧ v.extractLsb' 24 8 = 0#8) ∧
  statusWord State.reset = 0x00000080

/-- The faulting host accesses (R37, R38, R142): another width, a misaligned or unmapped offset below 0x100, and a window
access that is not 8-bit or comes while an operation is live. A faulting read returns 0. -/
def Obligations.OtherHostAccessesFault : Prop :=
  ∀ (s : State) (a : HostAccess), s.fault = false →
    ((a.off < 0x100 ∧ (a.bits ≠ 32 ∨ a.off ∉ [0x000, 0x004, 0x008, 0x00C, 0x010, 0x014])) ∨
     (0x100 ≤ a.off ∧ a.off < 0x100 + s.par.bufBytes ∧ (a.bits ≠ 8 ∨ s.op.opc ≠ none))) →
    (a.dir = .read → step (s.queued (.host a)) = .next { faulted s 8 with rdata := some 0 }) ∧
    (a.dir = .write → step (s.queued (.host a)) = .next (faulted s 8))

/-- The buffer window (R38): with no operation live, an 8-bit read returns `bufmem[i]` and an 8-bit write sets that byte
alone, in a frozen engine too (entry 17, the model's choice for the write); an access of another width, or with an operation live, raises HOST_ACCESS and a read returns 0. -/
def Obligations.BufferWindowReadsAndWrites : Prop :=
  ∀ (s : State) (i : Nat) (w : Word), i < s.par.bufBytes →
    (s.op.opc = none →
      step (s.queued (.host { dir := .read, bits := 8, off := 0x100 + i, data := w })) =
        .next { s with rdata := some ((bufByte s i).setWidth 32) } ∧
      ∃ t, step (s.queued (.host { dir := .write, bits := 8, off := 0x100 + i, data := w })) = .next t ∧
        t = { s with bufmem := t.bufmem } ∧ bufByte t i = w.extractLsb' 0 8 ∧
        ∀ x, x ≠ i → bufByte t x = bufByte s x) ∧
    (s.fault = false → ∀ n, n ≠ 8 ∨ s.op.opc ≠ none →
      step (s.queued (.host { dir := .read, bits := n, off := 0x100 + i, data := w })) =
        .next { faulted s 8 with rdata := some 0 } ∧
      step (s.queued (.host { dir := .write, bits := n, off := 0x100 + i, data := w })) = .next (faulted s 8))

/-! ## The whole machine -/

/-- Faults are sticky and precise (R28, R132, R150, R152): while frozen no step but reset changes `fault` or `fcode`; a step
that raises a fault writes one of the eight codes of R133 and nothing else (a faulting read returns 0); reset clears
both. -/
def Obligations.FaultsAreStickyAndPrecise : Prop :=
  ∀ (m : Move) (s t : State), step (s.queued m) = .next t →
    (m ≠ .reset → s.fault = true → t.fault = true ∧ t.fcode = s.fcode) ∧
    (m ≠ .reset → s.fault = false → t.fault = true →
      1 ≤ t.fcode.toNat ∧ t.fcode.toNat ≤ 8 ∧
      t = { s with fault := true, fcode := t.fcode, rdata := t.rdata } ∧
      (t.rdata = s.rdata ∨ t.rdata = some 0)) ∧
    (m = .reset → t.fault = false ∧ t.fcode = 0)

/-- Only a host write writes BUF, LEN or ADDR (R13), only an init writes the mode line (R71), only an init or a bind the
slots (R73), and no step writes a parameter; reset apart. -/
def Obligations.RegistersHaveTheirWritersOnly : Prop :=
  ∀ (m : Move) (s t : State), step (s.queued m) = .next t →
    t.par = s.par ∧
    (t.reg ≠ s.reg → m = .reset ∨
      ∃ off w, m = .host { dir := .write, bits := 32, off := off, data := w } ∧ off ∈ [0x004, 0x008, 0x00C]) ∧
    (t.arb.mode ≠ s.arb.mode → m = .reset ∨
      ∃ w i, m = commandMove w ∧ decode (.cmd32 w) = .ok i ∧ i ∈ [Instr.i2cInit, .spiInit, .flashInit]) ∧
    (t.arb ≠ s.arb → m = .reset ∨
      ∃ w i, m = commandMove w ∧ decode (.cmd32 w) = .ok i ∧
        i ∈ [Instr.i2cInit, .spiInit, .flashInit, .bindTx, .bindRx])

/-- A byte of `bufmem` changes only by a host write to it with no operation live, or by a receive handler of a live operation
at its cursor (R38, R47); reset apart. -/
def Obligations.BufferMemoryHasItsWritersOnly : Prop :=
  ∀ (m : Move) (s t : State) (i : Nat), Sound s → step (s.queued m) = .next t → m ≠ .reset →
    bufByte t i ≠ bufByte s i →
    (s.op.opc = none ∧ ∃ w, m = .host { dir := .write, bits := 8, off := 0x100 + i, data := w }) ∨
    (m = .isr .i2cRx ∧ s.op.opc ≠ none ∧ s.i2c.phase ≠ .idle ∧ i = s.i2c.cur.toNat) ∨
    (m = .isr .spiRx ∧ s.op.opc ≠ none ∧ s.spi.phase ≠ .idle ∧ s.spi.mem = .buf ∧ i = s.spi.cur.toNat)

/-- `i2c.phase` changes only along the table of R85; reset apart. -/
def Obligations.I2cPhaseFollowsItsTable : Prop :=
  ∀ (m : Move) (s t : State), Sound s → step (s.queued m) = .next t → m ≠ .reset → t.i2c.phase ≠ s.i2c.phase →
    (∃ w stop, m = commandMove w ∧ decode (.cmd32 w) = .ok (.i2cWrite stop) ∧
      s.i2c.phase = .idle ∧ t.i2c.phase = .starting ∧ t.i2c.dir = .tx) ∨
    (∃ w, m = commandMove w ∧ decode (.cmd32 w) = .ok .i2cRead ∧
      s.i2c.phase = .idle ∧ t.i2c.phase = .starting ∧ t.i2c.dir = .rx) ∨
    (m = .env .i2cTxRdy ∧ s.i2c.dir = .tx ∧ s.i2c.phase = .starting ∧ t.i2c.phase = .transmitting) ∨
    (∃ v, m = .env (.i2cRxByte v) ∧ s.i2c.dir = .rx ∧ s.i2c.phase = .starting ∧ t.i2c.phase = .receiving) ∨
    (m = .isr .i2cNack ∧ (s.i2c.phase = .starting ∨ s.i2c.phase = .transmitting) ∧ t.i2c.phase = .ackFailed) ∨
    (m = .seq .i2cWriteCont ∧ (s.i2c.phase = .transmitting ∨ s.i2c.phase = .ackFailed) ∧ s.i2c.done = true ∧
      s.i2c.sendStop = true ∧ t.i2c.phase = .awaitingStop) ∨
    (m = .seq .i2cWriteCont ∧ (s.i2c.phase = .transmitting ∨ s.i2c.phase = .ackFailed) ∧ s.i2c.done = true ∧
      s.i2c.sendStop = false ∧ t.i2c.phase = .idle) ∨
    (m = .seq .i2cWriteFinish ∧ s.i2c.phase = .awaitingStop ∧ s.i2c.stopping = false ∧ t.i2c.phase = .idle) ∨
    (m = .seq .i2cReadFinish ∧ (s.i2c.phase = .receiving ∨ s.i2c.phase = .ackFailed) ∧ s.i2c.done = true ∧
      t.i2c.phase = .idle)

/-- `spi.phase` changes only along the table of R102; reset apart. -/
def Obligations.SpiPhaseFollowsItsTable : Prop :=
  ∀ (m : Move) (s t : State), Sound s → step (s.queued m) = .next t → m ≠ .reset → t.spi.phase ≠ s.spi.phase →
    (s.spi.phase = .idle ∧ t.spi.phase = .waitIdle ∧
      (m = .seq .flashStep ∨ ∃ w i, m = commandMove w ∧ decode (.cmd32 w) = .ok i ∧
        (i = .spiWrite ∨ i = .spiRead))) ∨
    (m = .seq .spiGo ∧ s.spi.phase = .waitIdle ∧ s.spi.txFull = false ∧ s.spi.shifting = false ∧
      t.spi.phase = .transferring) ∨
    (m = .seq .spiFinish ∧ s.spi.phase = .transferring ∧ s.spi.done = true ∧ t.spi.phase = .idle)

/-- Reset: the machine starts in the table of R33 with STATUS at 0x00000080 (R160); and from any state every field of the
engine takes its reset value (R33, R158), the chip sees chip select rise where it was low (R159), and the environment's state
is kept (R158). That `bufmem`'s new values are the draw numbered `epoch`, that the rise comes before the engine's reset, and
which fields are the environment's is the model's choice (entries 6 and 20). -/
def Obligations.ResetGivesTheTableOfR33 : Prop :=
  ResetForm State.reset ∧ statusWord State.reset = 0x00000080 ∧
  ∀ s : State, ∃ t, step (s.queued .reset) = .next t ∧ ResetForm t ∧ statusWord t = 0x00000080 ∧
    t.epoch = s.epoch + 1 ∧ t.dev = (csHigh s).dev ∧ (s.cs = true → t.dev = s.dev) ∧
    t.par = s.par ∧ t.moves = s.moves

/-- A sound state, from reset with any parameters and any list of moves. -/
def Obligations.StartIsSound : Prop :=
  ∀ (p : Params) (ms : List Move), ParamsOk p → Sound { State.reset with par := p, moves := ms }

/-- Every step keeps soundness: the invariants of R34, the ownership of R79, the ranges of R138 and R139, the agreement of
flags with phases (R88, R93, R107, R108) and the canonical form of the memories. -/
def Obligations.EveryStepKeepsSoundness : Prop := ∀ s t : State, Sound s → step s = .next t → Sound t

/-- From a sound state no step stops the machine but a host access above the buffer window: no handler ever indexes outside
its memory (R36, R139), and every other step, faulting or not, has a next state. The refusal of an access the spec calls
outside the engine (R37) is the model's choice (entry 16). -/
def Obligations.SoundStepsNeverFault : Prop :=
  (∀ s : State, Sound s → step s = .refused .outsideEngine ∨ ∃ t, step s = .next t) ∧
  ∀ (s : State) (m : Move), Sound s →
    (step (s.queued m) = .refused .outsideEngine ↔ ∃ a, m = .host a ∧ 0x100 + s.par.bufBytes ≤ a.off)

/-- In a sound state a source that is pending and enabled finds both slots bound to its engine, so the rules for unbound and
cross-bound vectors are not reached (R79), and no step of another agent than the host raises a fault (R137, R145). -/
def Obligations.PendingSourceFindsItsEngine : Prop :=
  ∀ s : State, Sound s →
    (∀ src, sourcePending src s = true →
      s.arb.tx = some (sourceEngine src) ∧ s.arb.rx = some (sourceEngine src)) ∧
    ∀ m t, step (s.queued m) = .next t → s.fault = false → t.fault = true → ∃ a, m = .host a

/-- The four invariants of R34 in every state a run from reset reaches, whatever the parameters and the moves: a consequence
of StartIsSound and EveryStepKeepsSoundness. -/
def Obligations.ReachableStatesKeepR34 : Prop :=
  ∀ s : State, Reachable s →
    (s.op.opc = none → s.i2c.phase = .idle ∧ s.spi.phase = .idle ∧ s.fl.prog = []) ∧
    (s.i2c.phase ≠ .idle → s.op.opc = some .i2cWrite ∨ s.op.opc = some .i2cRead) ∧
    (s.spi.phase ≠ .idle → s.op.opc = some .spiWrite ∨ s.op.opc = some .spiRead ∨ s.op.opc = some .flashReadId ∨
      s.op.opc = some .flashRead ∨ s.op.opc = some .flashWrite ∨ s.op.opc = some .flashBusy) ∧
    (s.fault = true →
      (∀ k, moveEnabled (.seq k) s = false) ∧ (∀ src, moveEnabled (.isr src) s = false) ∧
      ∀ e, moveEnabled (.env e) s = true → e = .flashReady ∨ ∃ wel wip, e = .flashPowerCycle wel wip)

/-! ## Runs -/

/-- A write of `n` bytes with STOP = 0 that meets no NACK (R100 (a)), under the one schedule in which every acknowledge is
followed by its handler run: after its issue, each acknowledge and handler run loads one byte, byte
`k` on run `k + 1`; run `n + 1` completes, with `done` set and the interrupt disabled; the continuation then ends a write
without a stop with status 0 and the bus held. -/
def Obligations.I2cWriteRunsItsHandlerOncePerItem : Prop :=
  ∀ (s : State) (rest : List Move), ParamsOk s.par → ready s →
    s.arb = { mode := .i2c, tx := some .i2c, rx := some .i2c } → s.i2c.stopping = false →
    s.reg.buf.toNat + s.reg.len.toNat ≤ s.par.bufBytes →
    s.moves = commandMove 0x00000011 :: (writeSchedule s.reg.len.toNat ++ rest) →
    (∀ k, k < s.reg.len.toNat → ∃ t, Host.Core.run Sys2Proof.core (2 * k + 3) s = .next t ∧
      t.i2c.txdata = bufByte s (s.reg.buf.toNat + k) ∧ t.i2c.rem.toNat = s.reg.len.toNat - (k + 1) ∧
      t.i2c.done = false ∧ t.i2c.txie = true) ∧
    (∃ t, Host.Core.run Sys2Proof.core (2 * s.reg.len.toNat + 3) s = .next t ∧
      t.i2c.done = true ∧ t.i2c.ackOk = true ∧ t.i2c.txie = false) ∧
    ∃ t, Host.Core.run Sys2Proof.core (2 * s.reg.len.toNat + 4) s = .next t ∧
      t.op.opc = none ∧ t.res.nack = false ∧ t.i2c.phase = .idle ∧ t.i2c.held = true ∧ t.moves = rest

/-- An SPI write with the flash chip selected (R115 (b)), under the one schedule in which each byte is clocked before the next
is loaded: whatever the line carries, the chip's frame grows by exactly the
bytes of the buffer, in order, and the operation ends. -/
def Obligations.SpiWriteSendsTheBufferInOrder : Prop :=
  ∀ (s : State) (lines : List Byte) (rest : List Move), ParamsOk s.par → ready s →
    s.arb = { mode := .spi, tx := some .spi, rx := some .spi } → s.spi.txFull = false → s.spi.shifting = false →
    s.cs = false → s.par.flash = .reference → s.reg.buf.toNat + s.reg.len.toNat ≤ s.par.bufBytes →
    lines.length = s.reg.len.toNat →
    s.moves = commandMove 0x00000021 :: .seq .spiGo :: (spiWriteSchedule lines ++ rest) →
    ∃ t, Host.Core.run Sys2Proof.core (3 * lines.length + 4) s = .next t ∧
      t.dev.frame = s.dev.frame ++ bufBytesFrom s s.reg.buf.toNat s.reg.len.toNat ∧
      t.op.opc = none ∧ t.spi.phase = .idle ∧ t.fault = false ∧ t.moves = rest ∧
      ∀ x, flashByte t.dev x = flashByte s.dev x
end

