-- ==== Sys2Proof/Laws/State.lean ====
section
/-!
SUPPORT. The small lemmas of the state's updates: for each update and each field, what the field is afterwards. Every
one is true by `rfl`, or, for an update that asks which case it is in, by that case split.
-/

namespace Sys2Proof.Machine

/-! ## `setBufByte` -/

@[simp] theorem setBufByte_reg (s : State) (i : Nat) (v : Byte) : (setBufByte s i v).reg = s.reg := rfl
@[simp] theorem setBufByte_op (s : State) (i : Nat) (v : Byte) : (setBufByte s i v).op = s.op := rfl
@[simp] theorem setBufByte_res (s : State) (i : Nat) (v : Byte) : (setBufByte s i v).res = s.res := rfl
@[simp] theorem setBufByte_arb (s : State) (i : Nat) (v : Byte) : (setBufByte s i v).arb = s.arb := rfl
@[simp] theorem setBufByte_i2c (s : State) (i : Nat) (v : Byte) : (setBufByte s i v).i2c = s.i2c := rfl
@[simp] theorem setBufByte_spi (s : State) (i : Nat) (v : Byte) : (setBufByte s i v).spi = s.spi := rfl
@[simp] theorem setBufByte_fl (s : State) (i : Nat) (v : Byte) : (setBufByte s i v).fl = s.fl := rfl
@[simp] theorem setBufByte_cs (s : State) (i : Nat) (v : Byte) : (setBufByte s i v).cs = s.cs := rfl
@[simp] theorem setBufByte_bufmem (s : State) (i : Nat) (v : Byte) :
    (setBufByte s i v).bufmem = memPut s.bufmem i v := rfl
@[simp] theorem setBufByte_fault (s : State) (i : Nat) (v : Byte) : (setBufByte s i v).fault = s.fault := rfl
@[simp] theorem setBufByte_fcode (s : State) (i : Nat) (v : Byte) : (setBufByte s i v).fcode = s.fcode := rfl
@[simp] theorem setBufByte_dev (s : State) (i : Nat) (v : Byte) : (setBufByte s i v).dev = s.dev := rfl
@[simp] theorem setBufByte_par (s : State) (i : Nat) (v : Byte) : (setBufByte s i v).par = s.par := rfl
@[simp] theorem setBufByte_rdata (s : State) (i : Nat) (v : Byte) : (setBufByte s i v).rdata = s.rdata := rfl
@[simp] theorem setBufByte_epoch (s : State) (i : Nat) (v : Byte) : (setBufByte s i v).epoch = s.epoch := rfl
@[simp] theorem setBufByte_moves (s : State) (i : Nat) (v : Byte) : (setBufByte s i v).moves = s.moves := rfl
@[simp] theorem setBufByte_draws (s : State) (i : Nat) (v : Byte) : (setBufByte s i v).draws = s.draws := rfl

/-! ## `latchOp` -/

@[simp] theorem latchOp_reg (o : Opcode) (stop : Bool) (s : State) : (latchOp o stop s).reg = s.reg := rfl
@[simp] theorem latchOp_op (o : Opcode) (stop : Bool) (s : State) :
    (latchOp o stop s).op = { opc := some o, buf := s.reg.buf, len := s.reg.len, addr := s.reg.addr, stop := stop } := rfl
@[simp] theorem latchOp_res (o : Opcode) (stop : Bool) (s : State) : (latchOp o stop s).res = s.res := rfl
@[simp] theorem latchOp_arb (o : Opcode) (stop : Bool) (s : State) : (latchOp o stop s).arb = s.arb := rfl
@[simp] theorem latchOp_i2c (o : Opcode) (stop : Bool) (s : State) : (latchOp o stop s).i2c = s.i2c := rfl
@[simp] theorem latchOp_spi (o : Opcode) (stop : Bool) (s : State) : (latchOp o stop s).spi = s.spi := rfl
@[simp] theorem latchOp_fl (o : Opcode) (stop : Bool) (s : State) : (latchOp o stop s).fl = s.fl := rfl
@[simp] theorem latchOp_cs (o : Opcode) (stop : Bool) (s : State) : (latchOp o stop s).cs = s.cs := rfl
@[simp] theorem latchOp_bufmem (o : Opcode) (stop : Bool) (s : State) : (latchOp o stop s).bufmem = s.bufmem := rfl
@[simp] theorem latchOp_fault (o : Opcode) (stop : Bool) (s : State) : (latchOp o stop s).fault = s.fault := rfl
@[simp] theorem latchOp_fcode (o : Opcode) (stop : Bool) (s : State) : (latchOp o stop s).fcode = s.fcode := rfl
@[simp] theorem latchOp_dev (o : Opcode) (stop : Bool) (s : State) : (latchOp o stop s).dev = s.dev := rfl
@[simp] theorem latchOp_par (o : Opcode) (stop : Bool) (s : State) : (latchOp o stop s).par = s.par := rfl
@[simp] theorem latchOp_rdata (o : Opcode) (stop : Bool) (s : State) : (latchOp o stop s).rdata = s.rdata := rfl
@[simp] theorem latchOp_epoch (o : Opcode) (stop : Bool) (s : State) : (latchOp o stop s).epoch = s.epoch := rfl
@[simp] theorem latchOp_moves (o : Opcode) (stop : Bool) (s : State) : (latchOp o stop s).moves = s.moves := rfl
@[simp] theorem latchOp_draws (o : Opcode) (stop : Bool) (s : State) : (latchOp o stop s).draws = s.draws := rfl

/-! ## `finishOp` -/

@[simp] theorem finishOp_reg (s : State) : (finishOp s).reg = s.reg := rfl
@[simp] theorem finishOp_op (s : State) : (finishOp s).op = { s.op with opc := none } := rfl
@[simp] theorem finishOp_res (s : State) : (finishOp s).res = s.res := rfl
@[simp] theorem finishOp_arb (s : State) : (finishOp s).arb = s.arb := rfl
@[simp] theorem finishOp_i2c (s : State) : (finishOp s).i2c = s.i2c := rfl
@[simp] theorem finishOp_spi (s : State) : (finishOp s).spi = s.spi := rfl
@[simp] theorem finishOp_fl (s : State) : (finishOp s).fl = s.fl := rfl
@[simp] theorem finishOp_cs (s : State) : (finishOp s).cs = s.cs := rfl
@[simp] theorem finishOp_bufmem (s : State) : (finishOp s).bufmem = s.bufmem := rfl
@[simp] theorem finishOp_fault (s : State) : (finishOp s).fault = s.fault := rfl
@[simp] theorem finishOp_fcode (s : State) : (finishOp s).fcode = s.fcode := rfl
@[simp] theorem finishOp_dev (s : State) : (finishOp s).dev = s.dev := rfl
@[simp] theorem finishOp_par (s : State) : (finishOp s).par = s.par := rfl
@[simp] theorem finishOp_rdata (s : State) : (finishOp s).rdata = s.rdata := rfl
@[simp] theorem finishOp_epoch (s : State) : (finishOp s).epoch = s.epoch := rfl
@[simp] theorem finishOp_moves (s : State) : (finishOp s).moves = s.moves := rfl
@[simp] theorem finishOp_draws (s : State) : (finishOp s).draws = s.draws := rfl

/-! ## `startSpi` -/

@[simp] theorem startSpi_reg (d : XferDir) (m : SpiMem) (a n : Half) (s : State) :
    (startSpi d m a n s).reg = s.reg := rfl
@[simp] theorem startSpi_op (d : XferDir) (m : SpiMem) (a n : Half) (s : State) : (startSpi d m a n s).op = s.op := rfl
@[simp] theorem startSpi_res (d : XferDir) (m : SpiMem) (a n : Half) (s : State) :
    (startSpi d m a n s).res = s.res := rfl
@[simp] theorem startSpi_arb (d : XferDir) (m : SpiMem) (a n : Half) (s : State) :
    (startSpi d m a n s).arb = s.arb := rfl
@[simp] theorem startSpi_i2c (d : XferDir) (m : SpiMem) (a n : Half) (s : State) :
    (startSpi d m a n s).i2c = s.i2c := rfl
@[simp] theorem startSpi_spi (d : XferDir) (m : SpiMem) (a n : Half) (s : State) :
    (startSpi d m a n s).spi = { s.spi with done := false, rem := n, cur := a, dir := d, mem := m, phase := .waitIdle } := rfl
@[simp] theorem startSpi_fl (d : XferDir) (m : SpiMem) (a n : Half) (s : State) : (startSpi d m a n s).fl = s.fl := rfl
@[simp] theorem startSpi_cs (d : XferDir) (m : SpiMem) (a n : Half) (s : State) : (startSpi d m a n s).cs = s.cs := rfl
@[simp] theorem startSpi_bufmem (d : XferDir) (m : SpiMem) (a n : Half) (s : State) :
    (startSpi d m a n s).bufmem = s.bufmem := rfl
@[simp] theorem startSpi_fault (d : XferDir) (m : SpiMem) (a n : Half) (s : State) :
    (startSpi d m a n s).fault = s.fault := rfl
@[simp] theorem startSpi_fcode (d : XferDir) (m : SpiMem) (a n : Half) (s : State) :
    (startSpi d m a n s).fcode = s.fcode := rfl
@[simp] theorem startSpi_dev (d : XferDir) (m : SpiMem) (a n : Half) (s : State) :
    (startSpi d m a n s).dev = s.dev := rfl
@[simp] theorem startSpi_par (d : XferDir) (m : SpiMem) (a n : Half) (s : State) :
    (startSpi d m a n s).par = s.par := rfl
@[simp] theorem startSpi_rdata (d : XferDir) (m : SpiMem) (a n : Half) (s : State) :
    (startSpi d m a n s).rdata = s.rdata := rfl
@[simp] theorem startSpi_epoch (d : XferDir) (m : SpiMem) (a n : Half) (s : State) :
    (startSpi d m a n s).epoch = s.epoch := rfl
@[simp] theorem startSpi_moves (d : XferDir) (m : SpiMem) (a n : Half) (s : State) :
    (startSpi d m a n s).moves = s.moves := rfl
@[simp] theorem startSpi_draws (d : XferDir) (m : SpiMem) (a n : Half) (s : State) :
    (startSpi d m a n s).draws = s.draws := rfl

/-! ## `takeBus` -/

@[simp] theorem takeBus_reg (e : Engine) (s : State) : (takeBus e s).reg = s.reg := rfl
@[simp] theorem takeBus_op (e : Engine) (s : State) : (takeBus e s).op = s.op := rfl
@[simp] theorem takeBus_res (e : Engine) (s : State) : (takeBus e s).res = s.res := rfl
@[simp] theorem takeBus_arb (e : Engine) (s : State) :
    (takeBus e s).arb = { mode := e, tx := some e, rx := some e } := rfl
@[simp] theorem takeBus_i2c (e : Engine) (s : State) : (takeBus e s).i2c = s.i2c := rfl
@[simp] theorem takeBus_spi (e : Engine) (s : State) : (takeBus e s).spi = s.spi := rfl
@[simp] theorem takeBus_fl (e : Engine) (s : State) : (takeBus e s).fl = s.fl := rfl
@[simp] theorem takeBus_cs (e : Engine) (s : State) : (takeBus e s).cs = s.cs := rfl
@[simp] theorem takeBus_bufmem (e : Engine) (s : State) : (takeBus e s).bufmem = s.bufmem := rfl
@[simp] theorem takeBus_fault (e : Engine) (s : State) : (takeBus e s).fault = s.fault := rfl
@[simp] theorem takeBus_fcode (e : Engine) (s : State) : (takeBus e s).fcode = s.fcode := rfl
@[simp] theorem takeBus_dev (e : Engine) (s : State) : (takeBus e s).dev = s.dev := rfl
@[simp] theorem takeBus_par (e : Engine) (s : State) : (takeBus e s).par = s.par := rfl
@[simp] theorem takeBus_rdata (e : Engine) (s : State) : (takeBus e s).rdata = s.rdata := rfl
@[simp] theorem takeBus_epoch (e : Engine) (s : State) : (takeBus e s).epoch = s.epoch := rfl
@[simp] theorem takeBus_moves (e : Engine) (s : State) : (takeBus e s).moves = s.moves := rfl
@[simp] theorem takeBus_draws (e : Engine) (s : State) : (takeBus e s).draws = s.draws := rfl

/-! ## `clearFrame` -/

@[simp] theorem clearFrame_reg (s : State) : (clearFrame s).reg = s.reg := rfl
@[simp] theorem clearFrame_op (s : State) : (clearFrame s).op = s.op := rfl
@[simp] theorem clearFrame_res (s : State) : (clearFrame s).res = s.res := rfl
@[simp] theorem clearFrame_arb (s : State) : (clearFrame s).arb = s.arb := rfl
@[simp] theorem clearFrame_i2c (s : State) : (clearFrame s).i2c = s.i2c := rfl
@[simp] theorem clearFrame_spi (s : State) : (clearFrame s).spi = s.spi := rfl
@[simp] theorem clearFrame_fl (s : State) : (clearFrame s).fl = s.fl := rfl
@[simp] theorem clearFrame_cs (s : State) : (clearFrame s).cs = s.cs := rfl
@[simp] theorem clearFrame_bufmem (s : State) : (clearFrame s).bufmem = s.bufmem := rfl
@[simp] theorem clearFrame_fault (s : State) : (clearFrame s).fault = s.fault := rfl
@[simp] theorem clearFrame_fcode (s : State) : (clearFrame s).fcode = s.fcode := rfl
@[simp] theorem clearFrame_dev (s : State) : (clearFrame s).dev = { s.dev with frame := [] } := rfl
@[simp] theorem clearFrame_par (s : State) : (clearFrame s).par = s.par := rfl
@[simp] theorem clearFrame_rdata (s : State) : (clearFrame s).rdata = s.rdata := rfl
@[simp] theorem clearFrame_epoch (s : State) : (clearFrame s).epoch = s.epoch := rfl
@[simp] theorem clearFrame_moves (s : State) : (clearFrame s).moves = s.moves := rfl
@[simp] theorem clearFrame_draws (s : State) : (clearFrame s).draws = s.draws := rfl

/-! ## `exchangeByte` -/

@[simp] theorem exchangeByte_reg (b : Byte) (s : State) : (exchangeByte b s).reg = s.reg := rfl
@[simp] theorem exchangeByte_op (b : Byte) (s : State) : (exchangeByte b s).op = s.op := rfl
@[simp] theorem exchangeByte_res (b : Byte) (s : State) : (exchangeByte b s).res = s.res := rfl
@[simp] theorem exchangeByte_arb (b : Byte) (s : State) : (exchangeByte b s).arb = s.arb := rfl
@[simp] theorem exchangeByte_i2c (b : Byte) (s : State) : (exchangeByte b s).i2c = s.i2c := rfl
@[simp] theorem exchangeByte_spi (b : Byte) (s : State) : (exchangeByte b s).spi = { s.spi with rxbuf := b } := rfl
@[simp] theorem exchangeByte_fl (b : Byte) (s : State) : (exchangeByte b s).fl = s.fl := rfl
@[simp] theorem exchangeByte_cs (b : Byte) (s : State) : (exchangeByte b s).cs = s.cs := rfl
@[simp] theorem exchangeByte_bufmem (b : Byte) (s : State) : (exchangeByte b s).bufmem = s.bufmem := rfl
@[simp] theorem exchangeByte_fault (b : Byte) (s : State) : (exchangeByte b s).fault = s.fault := rfl
@[simp] theorem exchangeByte_fcode (b : Byte) (s : State) : (exchangeByte b s).fcode = s.fcode := rfl
@[simp] theorem exchangeByte_dev (b : Byte) (s : State) :
    (exchangeByte b s).dev = { s.dev with frame := s.dev.frame ++ [s.spi.shreg] } := rfl
@[simp] theorem exchangeByte_par (b : Byte) (s : State) : (exchangeByte b s).par = s.par := rfl
@[simp] theorem exchangeByte_rdata (b : Byte) (s : State) : (exchangeByte b s).rdata = s.rdata := rfl
@[simp] theorem exchangeByte_epoch (b : Byte) (s : State) : (exchangeByte b s).epoch = s.epoch := rfl
@[simp] theorem exchangeByte_moves (b : Byte) (s : State) : (exchangeByte b s).moves = s.moves := rfl
@[simp] theorem exchangeByte_draws (b : Byte) (s : State) : (exchangeByte b s).draws = s.draws := rfl

/-! ## `loadProgram` -/

@[simp] theorem loadProgram_reg (p : List Action) (s : State) : (loadProgram p s).reg = s.reg := rfl
@[simp] theorem loadProgram_op (p : List Action) (s : State) : (loadProgram p s).op = s.op := rfl
@[simp] theorem loadProgram_res (p : List Action) (s : State) : (loadProgram p s).res = s.res := rfl
@[simp] theorem loadProgram_arb (p : List Action) (s : State) : (loadProgram p s).arb = s.arb := rfl
@[simp] theorem loadProgram_i2c (p : List Action) (s : State) : (loadProgram p s).i2c = s.i2c := rfl
@[simp] theorem loadProgram_spi (p : List Action) (s : State) : (loadProgram p s).spi = s.spi := rfl
@[simp] theorem loadProgram_fl (p : List Action) (s : State) :
    (loadProgram p s).fl = { s.fl with prog := p, pc := 0, started := false } := rfl
@[simp] theorem loadProgram_cs (p : List Action) (s : State) : (loadProgram p s).cs = s.cs := rfl
@[simp] theorem loadProgram_bufmem (p : List Action) (s : State) : (loadProgram p s).bufmem = s.bufmem := rfl
@[simp] theorem loadProgram_fault (p : List Action) (s : State) : (loadProgram p s).fault = s.fault := rfl
@[simp] theorem loadProgram_fcode (p : List Action) (s : State) : (loadProgram p s).fcode = s.fcode := rfl
@[simp] theorem loadProgram_dev (p : List Action) (s : State) : (loadProgram p s).dev = s.dev := rfl
@[simp] theorem loadProgram_par (p : List Action) (s : State) : (loadProgram p s).par = s.par := rfl
@[simp] theorem loadProgram_rdata (p : List Action) (s : State) : (loadProgram p s).rdata = s.rdata := rfl
@[simp] theorem loadProgram_epoch (p : List Action) (s : State) : (loadProgram p s).epoch = s.epoch := rfl
@[simp] theorem loadProgram_moves (p : List Action) (s : State) : (loadProgram p s).moves = s.moves := rfl
@[simp] theorem loadProgram_draws (p : List Action) (s : State) : (loadProgram p s).draws = s.draws := rfl

/-! ## `setHeaderAddr` -/

@[simp] theorem setHeaderAddr_reg (a : FlashAddr) (s : State) : (setHeaderAddr a s).reg = s.reg := rfl
@[simp] theorem setHeaderAddr_op (a : FlashAddr) (s : State) : (setHeaderAddr a s).op = s.op := rfl
@[simp] theorem setHeaderAddr_res (a : FlashAddr) (s : State) : (setHeaderAddr a s).res = s.res := rfl
@[simp] theorem setHeaderAddr_arb (a : FlashAddr) (s : State) : (setHeaderAddr a s).arb = s.arb := rfl
@[simp] theorem setHeaderAddr_i2c (a : FlashAddr) (s : State) : (setHeaderAddr a s).i2c = s.i2c := rfl
@[simp] theorem setHeaderAddr_spi (a : FlashAddr) (s : State) : (setHeaderAddr a s).spi = s.spi := rfl
@[simp] theorem setHeaderAddr_fl (a : FlashAddr) (s : State) :
    (setHeaderAddr a s).fl = { s.fl with hdr := { s.fl.hdr with b1 := addrByte2 a, b2 := addrByte1 a, b3 := addrByte0 a } } := rfl
@[simp] theorem setHeaderAddr_cs (a : FlashAddr) (s : State) : (setHeaderAddr a s).cs = s.cs := rfl
@[simp] theorem setHeaderAddr_bufmem (a : FlashAddr) (s : State) : (setHeaderAddr a s).bufmem = s.bufmem := rfl
@[simp] theorem setHeaderAddr_fault (a : FlashAddr) (s : State) : (setHeaderAddr a s).fault = s.fault := rfl
@[simp] theorem setHeaderAddr_fcode (a : FlashAddr) (s : State) : (setHeaderAddr a s).fcode = s.fcode := rfl
@[simp] theorem setHeaderAddr_dev (a : FlashAddr) (s : State) : (setHeaderAddr a s).dev = s.dev := rfl
@[simp] theorem setHeaderAddr_par (a : FlashAddr) (s : State) : (setHeaderAddr a s).par = s.par := rfl
@[simp] theorem setHeaderAddr_rdata (a : FlashAddr) (s : State) : (setHeaderAddr a s).rdata = s.rdata := rfl
@[simp] theorem setHeaderAddr_epoch (a : FlashAddr) (s : State) : (setHeaderAddr a s).epoch = s.epoch := rfl
@[simp] theorem setHeaderAddr_moves (a : FlashAddr) (s : State) : (setHeaderAddr a s).moves = s.moves := rfl
@[simp] theorem setHeaderAddr_draws (a : FlashAddr) (s : State) : (setHeaderAddr a s).draws = s.draws := rfl

/-! ## `setHeaderCommand` -/

@[simp] theorem setHeaderCommand_reg (c : Byte) (s : State) : (setHeaderCommand c s).reg = s.reg := rfl
@[simp] theorem setHeaderCommand_op (c : Byte) (s : State) : (setHeaderCommand c s).op = s.op := rfl
@[simp] theorem setHeaderCommand_res (c : Byte) (s : State) : (setHeaderCommand c s).res = s.res := rfl
@[simp] theorem setHeaderCommand_arb (c : Byte) (s : State) : (setHeaderCommand c s).arb = s.arb := rfl
@[simp] theorem setHeaderCommand_i2c (c : Byte) (s : State) : (setHeaderCommand c s).i2c = s.i2c := rfl
@[simp] theorem setHeaderCommand_spi (c : Byte) (s : State) : (setHeaderCommand c s).spi = s.spi := rfl
@[simp] theorem setHeaderCommand_fl (c : Byte) (s : State) :
    (setHeaderCommand c s).fl = { s.fl with hdr := { s.fl.hdr with b0 := c } } := rfl
@[simp] theorem setHeaderCommand_cs (c : Byte) (s : State) : (setHeaderCommand c s).cs = s.cs := rfl
@[simp] theorem setHeaderCommand_bufmem (c : Byte) (s : State) : (setHeaderCommand c s).bufmem = s.bufmem := rfl
@[simp] theorem setHeaderCommand_fault (c : Byte) (s : State) : (setHeaderCommand c s).fault = s.fault := rfl
@[simp] theorem setHeaderCommand_fcode (c : Byte) (s : State) : (setHeaderCommand c s).fcode = s.fcode := rfl
@[simp] theorem setHeaderCommand_dev (c : Byte) (s : State) : (setHeaderCommand c s).dev = s.dev := rfl
@[simp] theorem setHeaderCommand_par (c : Byte) (s : State) : (setHeaderCommand c s).par = s.par := rfl
@[simp] theorem setHeaderCommand_rdata (c : Byte) (s : State) : (setHeaderCommand c s).rdata = s.rdata := rfl
@[simp] theorem setHeaderCommand_epoch (c : Byte) (s : State) : (setHeaderCommand c s).epoch = s.epoch := rfl
@[simp] theorem setHeaderCommand_moves (c : Byte) (s : State) : (setHeaderCommand c s).moves = s.moves := rfl
@[simp] theorem setHeaderCommand_draws (c : Byte) (s : State) : (setHeaderCommand c s).draws = s.draws := rfl

/-! ## `nextAction` -/

@[simp] theorem nextAction_reg (s : State) : (nextAction s).reg = s.reg := rfl
@[simp] theorem nextAction_op (s : State) : (nextAction s).op = s.op := rfl
@[simp] theorem nextAction_res (s : State) : (nextAction s).res = s.res := rfl
@[simp] theorem nextAction_arb (s : State) : (nextAction s).arb = s.arb := rfl
@[simp] theorem nextAction_i2c (s : State) : (nextAction s).i2c = s.i2c := rfl
@[simp] theorem nextAction_spi (s : State) : (nextAction s).spi = s.spi := rfl
@[simp] theorem nextAction_fl (s : State) :
    (nextAction s).fl = { s.fl with pc := s.fl.pc + 1, started := false } := rfl
@[simp] theorem nextAction_cs (s : State) : (nextAction s).cs = s.cs := rfl
@[simp] theorem nextAction_bufmem (s : State) : (nextAction s).bufmem = s.bufmem := rfl
@[simp] theorem nextAction_fault (s : State) : (nextAction s).fault = s.fault := rfl
@[simp] theorem nextAction_fcode (s : State) : (nextAction s).fcode = s.fcode := rfl
@[simp] theorem nextAction_dev (s : State) : (nextAction s).dev = s.dev := rfl
@[simp] theorem nextAction_par (s : State) : (nextAction s).par = s.par := rfl
@[simp] theorem nextAction_rdata (s : State) : (nextAction s).rdata = s.rdata := rfl
@[simp] theorem nextAction_epoch (s : State) : (nextAction s).epoch = s.epoch := rfl
@[simp] theorem nextAction_moves (s : State) : (nextAction s).moves = s.moves := rfl
@[simp] theorem nextAction_draws (s : State) : (nextAction s).draws = s.draws := rfl

/-! ## `markStarted` -/

@[simp] theorem markStarted_reg (s : State) : (markStarted s).reg = s.reg := rfl
@[simp] theorem markStarted_op (s : State) : (markStarted s).op = s.op := rfl
@[simp] theorem markStarted_res (s : State) : (markStarted s).res = s.res := rfl
@[simp] theorem markStarted_arb (s : State) : (markStarted s).arb = s.arb := rfl
@[simp] theorem markStarted_i2c (s : State) : (markStarted s).i2c = s.i2c := rfl
@[simp] theorem markStarted_spi (s : State) : (markStarted s).spi = s.spi := rfl
@[simp] theorem markStarted_fl (s : State) : (markStarted s).fl = { s.fl with started := true } := rfl
@[simp] theorem markStarted_cs (s : State) : (markStarted s).cs = s.cs := rfl
@[simp] theorem markStarted_bufmem (s : State) : (markStarted s).bufmem = s.bufmem := rfl
@[simp] theorem markStarted_fault (s : State) : (markStarted s).fault = s.fault := rfl
@[simp] theorem markStarted_fcode (s : State) : (markStarted s).fcode = s.fcode := rfl
@[simp] theorem markStarted_dev (s : State) : (markStarted s).dev = s.dev := rfl
@[simp] theorem markStarted_par (s : State) : (markStarted s).par = s.par := rfl
@[simp] theorem markStarted_rdata (s : State) : (markStarted s).rdata = s.rdata := rfl
@[simp] theorem markStarted_epoch (s : State) : (markStarted s).epoch = s.epoch := rfl
@[simp] theorem markStarted_moves (s : State) : (markStarted s).moves = s.moves := rfl
@[simp] theorem markStarted_draws (s : State) : (markStarted s).draws = s.draws := rfl

/-! ## `answerHost` -/

@[simp] theorem answerHost_reg (w : Word) (s : State) : (answerHost w s).reg = s.reg := rfl
@[simp] theorem answerHost_op (w : Word) (s : State) : (answerHost w s).op = s.op := rfl
@[simp] theorem answerHost_res (w : Word) (s : State) : (answerHost w s).res = s.res := rfl
@[simp] theorem answerHost_arb (w : Word) (s : State) : (answerHost w s).arb = s.arb := rfl
@[simp] theorem answerHost_i2c (w : Word) (s : State) : (answerHost w s).i2c = s.i2c := rfl
@[simp] theorem answerHost_spi (w : Word) (s : State) : (answerHost w s).spi = s.spi := rfl
@[simp] theorem answerHost_fl (w : Word) (s : State) : (answerHost w s).fl = s.fl := rfl
@[simp] theorem answerHost_cs (w : Word) (s : State) : (answerHost w s).cs = s.cs := rfl
@[simp] theorem answerHost_bufmem (w : Word) (s : State) : (answerHost w s).bufmem = s.bufmem := rfl
@[simp] theorem answerHost_fault (w : Word) (s : State) : (answerHost w s).fault = s.fault := rfl
@[simp] theorem answerHost_fcode (w : Word) (s : State) : (answerHost w s).fcode = s.fcode := rfl
@[simp] theorem answerHost_dev (w : Word) (s : State) : (answerHost w s).dev = s.dev := rfl
@[simp] theorem answerHost_par (w : Word) (s : State) : (answerHost w s).par = s.par := rfl
@[simp] theorem answerHost_rdata (w : Word) (s : State) : (answerHost w s).rdata = some w := rfl
@[simp] theorem answerHost_epoch (w : Word) (s : State) : (answerHost w s).epoch = s.epoch := rfl
@[simp] theorem answerHost_moves (w : Word) (s : State) : (answerHost w s).moves = s.moves := rfl
@[simp] theorem answerHost_draws (w : Word) (s : State) : (answerHost w s).draws = s.draws := rfl

/-! ## `raiseFault` -/

@[simp] theorem raiseFault_reg (c : FaultCode) (s : State) : (raiseFault c s).reg = s.reg := by
  unfold raiseFault; split <;> rfl
@[simp] theorem raiseFault_op (c : FaultCode) (s : State) : (raiseFault c s).op = s.op := by
  unfold raiseFault; split <;> rfl
@[simp] theorem raiseFault_res (c : FaultCode) (s : State) : (raiseFault c s).res = s.res := by
  unfold raiseFault; split <;> rfl
@[simp] theorem raiseFault_arb (c : FaultCode) (s : State) : (raiseFault c s).arb = s.arb := by
  unfold raiseFault; split <;> rfl
@[simp] theorem raiseFault_i2c (c : FaultCode) (s : State) : (raiseFault c s).i2c = s.i2c := by
  unfold raiseFault; split <;> rfl
@[simp] theorem raiseFault_spi (c : FaultCode) (s : State) : (raiseFault c s).spi = s.spi := by
  unfold raiseFault; split <;> rfl
@[simp] theorem raiseFault_fl (c : FaultCode) (s : State) : (raiseFault c s).fl = s.fl := by
  unfold raiseFault; split <;> rfl
@[simp] theorem raiseFault_cs (c : FaultCode) (s : State) : (raiseFault c s).cs = s.cs := by
  unfold raiseFault; split <;> rfl
@[simp] theorem raiseFault_bufmem (c : FaultCode) (s : State) : (raiseFault c s).bufmem = s.bufmem := by
  unfold raiseFault; split <;> rfl
@[simp] theorem raiseFault_fault (c : FaultCode) (s : State) : (raiseFault c s).fault = true := by
  unfold raiseFault; split <;> simp_all
@[simp] theorem raiseFault_fcode (c : FaultCode) (s : State) :
    (raiseFault c s).fcode = if s.fault then s.fcode else faultNumber c := by
  unfold raiseFault; split <;> rfl
@[simp] theorem raiseFault_dev (c : FaultCode) (s : State) : (raiseFault c s).dev = s.dev := by
  unfold raiseFault; split <;> rfl
@[simp] theorem raiseFault_par (c : FaultCode) (s : State) : (raiseFault c s).par = s.par := by
  unfold raiseFault; split <;> rfl
@[simp] theorem raiseFault_rdata (c : FaultCode) (s : State) : (raiseFault c s).rdata = s.rdata := by
  unfold raiseFault; split <;> rfl
@[simp] theorem raiseFault_epoch (c : FaultCode) (s : State) : (raiseFault c s).epoch = s.epoch := by
  unfold raiseFault; split <;> rfl
@[simp] theorem raiseFault_moves (c : FaultCode) (s : State) : (raiseFault c s).moves = s.moves := by
  unfold raiseFault; split <;> rfl
@[simp] theorem raiseFault_draws (c : FaultCode) (s : State) : (raiseFault c s).draws = s.draws := by
  unfold raiseFault; split <;> rfl

end Sys2Proof.Machine
end

