-- ==== Sys2Proof/Laws/Memory.lean ====
section
/-!
SUPPORT. The laws of the memories: reading after writing, every other address unchanged, and the canonical form kept by
every operation (20_memory.md R36, R52, R57, R58).
-/

namespace Sys2Proof.Machine

/-! ## Sparse memories -/

theorem memGet?_put_same (m : Memory) (a : Nat) (v : Byte) : memGet? (memPut m a v) a = some v := by
  induction m with
  | nil => simp [memPut, memGet?]
  | cons c r ih =>
    obtain ⟨b, w⟩ := c
    unfold memPut
    split
    · simp [memGet?]
    · split
      · simp [memGet?]
      · rename_i h
        simp [memGet?, Ne.symm h, ih]

theorem memGet?_put_other (m : Memory) {a x : Nat} (v : Byte) (h : x ≠ a) :
    memGet? (memPut m a v) x = memGet? m x := by
  induction m with
  | nil => simp [memPut, memGet?, Ne.symm h]
  | cons c r ih =>
    obtain ⟨b, w⟩ := c
    unfold memPut
    split
    · simp [memGet?, Ne.symm h]
    · split
      · rename_i hab
        subst hab
        simp [memGet?, Ne.symm h]
      · simp [memGet?, ih]

theorem memGet?_remove_same (m : Memory) (a : Nat) : memGet? (memRemove m a) a = none := by
  induction m with
  | nil => rfl
  | cons c r ih =>
    obtain ⟨b, w⟩ := c
    by_cases hb : b = a <;> simp_all [memRemove, memGet?]

/-- Taking cells off a list by a test of their address alone: the addresses that pass the test read as before. -/
theorem memGet?_filter (m : Memory) (p : Nat → Bool) (a : Nat) :
    memGet? (m.filter (fun c => p c.1)) a = if p a then memGet? m a else none := by
  induction m with
  | nil => simp [memGet?]
  | cons c r ih =>
    obtain ⟨b, w⟩ := c
    by_cases hp : p b <;> by_cases hb : b = a <;> simp_all [memGet?]

theorem memGet?_remove_other (m : Memory) {a x : Nat} (h : x ≠ a) : memGet? (memRemove m a) x = memGet? m x := by
  have := memGet?_filter m (fun b => decide (b ≠ a)) x
  simpa [memRemove, h] using this

theorem mem_memPut {m : Memory} {a : Nat} {v : Byte} {c : Host.Cell} (h : c ∈ memPut m a v) : c = (a, v) ∨ c ∈ m := by
  induction m with
  | nil => simpa [memPut] using h
  | cons d r ih =>
    obtain ⟨b, w⟩ := d
    unfold memPut at h
    split at h
    · simpa using h
    · split at h
      · rcases List.mem_cons.mp h with h | h
        · exact .inl h
        · exact .inr (List.mem_cons_of_mem _ h)
      · rcases List.mem_cons.mp h with h | h
        · exact .inr (h ▸ List.mem_cons_self)
        · rcases ih h with h | h
          · exact .inl h
          · exact .inr (List.mem_cons_of_mem _ h)

theorem memPut_wf {m : Memory} (h : Memory.wf m) (a : Nat) (v : Byte) : Memory.wf (memPut m a v) := by
  induction m with
  | nil => simp [memPut, Memory.wf]
  | cons d r ih =>
    obtain ⟨b, w⟩ := d
    obtain ⟨hb, hr⟩ := List.pairwise_cons.mp h
    unfold memPut
    split
    · rename_i hab
      refine List.pairwise_cons.mpr ⟨?_, h⟩
      intro c hc
      rcases List.mem_cons.mp hc with rfl | hc
      · exact hab
      · exact lt_trans hab (hb c hc)
    · split
      · rename_i hab
        subst hab
        exact List.pairwise_cons.mpr ⟨hb, hr⟩
      · refine List.pairwise_cons.mpr ⟨?_, ih hr⟩
        intro c hc
        rcases mem_memPut hc with rfl | hc
        · simp only
          omega
        · exact hb c hc

theorem memRemove_wf {m : Memory} (h : Memory.wf m) (a : Nat) : Memory.wf (memRemove m a) := h.filter _

/-! ## The buffer memory -/

theorem bufByte_setBufByte_same (s : State) (i : Nat) (v : Byte) : bufByte (setBufByte s i v) i = v := by
  simp [bufByte, memGet?_put_same]

theorem bufByte_setBufByte_other (s : State) {i x : Nat} (v : Byte) (h : x ≠ i) :
    bufByte (setBufByte s i v) x = bufByte s x := by
  simp [bufByte, memGet?_put_other _ _ h]

/-- One byte of the buffer memory depends on the listed bytes and the number of the reset alone. -/
theorem bufByte_congr {s t : State} (hm : t.bufmem = s.bufmem) (he : t.epoch = s.epoch) (i : Nat) :
    bufByte t i = bufByte s i := by
  simp [bufByte, hm, he]

/-! ## The flash chip's memory -/

theorem flashPut_erased (d : FlashChip) (a : Nat) (v : Byte) : (flashPut d a v).erased = d.erased := by
  unfold flashPut; split <;> rfl

theorem flashByte_flashPut_same (d : FlashChip) (a : Nat) (v : Byte) : flashByte (flashPut d a v) a = v := by
  unfold flashPut
  split
  · rename_i h
    simp [flashByte, memGet?_remove_same, flashUnlisted, h.1, h.2]
  · simp [flashByte, memGet?_put_same]

theorem flashByte_flashPut_other (d : FlashChip) {a x : Nat} (v : Byte) (h : x ≠ a) :
    flashByte (flashPut d a v) x = flashByte d x := by
  unfold flashPut
  split
  · simp [flashByte, memGet?_remove_other _ h, flashUnlisted]
  · simp [flashByte, memGet?_put_other _ _ h, flashUnlisted]

theorem mem_insertSector (l : List Nat) (k j : Nat) : j ∈ insertSector l k ↔ j = k ∨ j ∈ l := by
  induction l with
  | nil => simp [insertSector]
  | cons b r ih =>
    unfold insertSector
    split
    · simp
    · split
      · rename_i h; subst h; simp
      · simp [ih]; tauto

theorem insertSector_rising {l : List Nat} (h : l.Pairwise (· < ·)) (k : Nat) :
    (insertSector l k).Pairwise (· < ·) := by
  induction l with
  | nil => simp [insertSector]
  | cons b r ih =>
    obtain ⟨hb, hr⟩ := List.pairwise_cons.mp h
    unfold insertSector
    split
    · rename_i hk
      refine List.pairwise_cons.mpr ⟨?_, h⟩
      intro c hc
      rcases List.mem_cons.mp hc with rfl | hc
      · exact hk
      · exact lt_trans hk (hb c hc)
    · split
      · rename_i h'; subst h'; exact h
      · refine List.pairwise_cons.mpr ⟨?_, ih hr⟩
        intro c hc
        rcases (mem_insertSector r k c).mp hc with rfl | hc
        · omega
        · exact hb c hc

/-- After an erase the bytes of the sector read 0xFF and every other byte reads as before (R57). -/
theorem flashByte_flashEraseSector (d : FlashChip) (k a : Nat) :
    flashByte (flashEraseSector d k) a = if sectorOf a = k then 0xFF else flashByte d a := by
  have hf := memGet?_filter d.cells (fun b => decide (sectorOf b ≠ k)) a
  by_cases h : sectorOf a = k
  · simp [flashByte, flashEraseSector, flashUnlisted, mem_insertSector, h] at hf ⊢
    simp [hf]
  · simp [flashByte, flashEraseSector, flashUnlisted, mem_insertSector, h] at hf ⊢
    simp [hf]

theorem flashPut_wf {d : FlashChip} (h : d.wf) {a : Nat} (ha : a < Config.flashBytes) (v : Byte) :
    (flashPut d a v).wf := by
  obtain ⟨h1, h2, h3, h4, h5⟩ := h
  unfold flashPut
  split
  · refine ⟨memRemove_wf h1 a, ?_, h3, h4, ?_⟩
    · exact fun c hc => h2 c (List.mem_of_mem_filter hc)
    · exact fun c hc => h5 c (List.mem_of_mem_filter hc)
  · rename_i hne
    refine ⟨memPut_wf h1 a v, ?_, h3, h4, ?_⟩
    · intro c hc
      rcases mem_memPut hc with rfl | hc
      · exact ha
      · exact h2 c hc
    · intro c hc
      rcases mem_memPut hc with rfl | hc
      · exact fun he hv => hne ⟨he, hv⟩
      · exact h5 c hc

theorem flashEraseSector_wf {d : FlashChip} (h : d.wf) {k : Nat} (hk : k < Config.flashBytes / Config.sectorBytes) :
    (flashEraseSector d k).wf := by
  obtain ⟨h1, h2, h3, h4, h5⟩ := h
  refine ⟨List.Pairwise.filter _ h1, ?_, insertSector_rising h3 k, ?_, ?_⟩
  · exact fun c hc => h2 c (List.mem_of_mem_filter hc)
  · intro j hj
    rcases (mem_insertSector _ _ _).mp hj with rfl | hj
    · exact hk
    · exact h4 j hj
  · intro c hc he
    have hc' := List.mem_filter.mp hc
    rcases (mem_insertSector _ _ _).mp he with he | he
    · simp [sectorOf] at hc'
      exact absurd he (of_decide_eq_true hc'.2)
    · exact h5 c hc'.1 he

/-- The page wrap keeps an address below 2^24 (R58). -/
theorem pageAddr_lt {a : Nat} (h : a < Config.flashBytes) (j : Nat) : pageAddr a j < Config.flashBytes := by
  have h2 : (a % 256 + j) % 256 < 256 := Nat.mod_lt _ (by decide)
  simp only [pageAddr, Config.pageBytes, Config.flashBytes] at *
  omega

/-- The addresses of two payload bytes of a page differ. -/
theorem pageAddr_ne (a : Nat) {i j : Nat} (hi : i < 256) (hj : j < 256) (h : i ≠ j) : pageAddr a i ≠ pageAddr a j := by
  simp only [pageAddr, Config.pageBytes]; omega

/-- Everything a page program of a payload that fits the page does to the bytes. -/
theorem flashByte_programBytes (a : Nat) (l : List Byte) (j : Nat) (d : FlashChip) (hl : j + l.length ≤ 256) :
    (∀ i v, l[i]? = some v →
      flashByte (programBytes d a j l) (pageAddr a (j + i)) = flashByte d (pageAddr a (j + i)) &&& v) ∧
    ∀ x, (∀ i, i < l.length → x ≠ pageAddr a (j + i)) → flashByte (programBytes d a j l) x = flashByte d x := by
  induction l generalizing j d with
  | nil => exact ⟨fun i v h => by simp at h, fun x _ => rfl⟩
  | cons v r ih =>
    simp only [List.length_cons] at hl
    obtain ⟨i1, i2⟩ := ih (j + 1) (flashPut d (pageAddr a j) (flashByte d (pageAddr a j) &&& v)) (by omega)
    refine ⟨fun i w hw => ?_, fun x hx => ?_⟩
    · cases i with
      | zero =>
        obtain rfl : v = w := by simpa using hw
        simp only [programBytes, Nat.add_zero]
        rw [i2 _ (fun i hi => pageAddr_ne a (by omega) (by omega) (by omega)), flashByte_flashPut_same]
      | succ i =>
        have hw' : r[i]? = some w := by simpa using hw
        have hi : i < r.length := (List.getElem?_eq_some_iff.1 hw').1
        have h := i1 i w hw'
        rw [show j + 1 + i = j + (i + 1) from by omega] at h
        simp only [programBytes]
        rw [h, flashByte_flashPut_other _ _ (pageAddr_ne a (by omega) (by omega) (by omega))]
    · simp only [programBytes]
      rw [i2 x (fun i hi => by
          have h := hx (i + 1) (by simpa using hi)
          rwa [show j + (i + 1) = j + 1 + i from by omega] at h),
        flashByte_flashPut_other _ _ (by simpa using hx 0 (by simp))]

/-- A page that is scrambled leaves every byte outside it. -/
theorem flashByte_scrambleBytes {a n x : Nat} (d : FlashChip) (k : Nat) (h : x < a ∨ a + n ≤ x) :
    flashByte (scrambleBytes d a k n) x = flashByte d x := by
  induction n generalizing d a k with
  | zero => rfl
  | succ n ih => rw [scrambleBytes, ih _ _ (by omega), flashByte_flashPut_other _ _ (by omega)]

theorem programBytes_wf {d : FlashChip} (h : d.wf) {a : Nat} (ha : a < Config.flashBytes) (j : Nat) (l : List Byte) :
    (programBytes d a j l).wf := by
  induction l generalizing d j with
  | nil => exact h
  | cons v r ih => exact ih (flashPut_wf h (pageAddr_lt ha j) _) (j + 1)

theorem scrambleBytes_wf {d : FlashChip} (h : d.wf) {a k n : Nat} (ha : a + n ≤ Config.flashBytes) :
    (scrambleBytes d a k n).wf := by
  induction n generalizing d a k with
  | zero => exact h
  | succ n ih => exact ih (flashPut_wf h (by omega) _) (by omega)

/-- The latches and the frame are no part of the memory's canonical form. -/
theorem FlashChip.wf_latches {d : FlashChip} (h : d.wf) (wel wip : Bool) (frame : List Byte) :
    ({ d with wel := wel, wip := wip, frame := frame } : FlashChip).wf := h

theorem reset_memory_wf : Memory.wf State.reset.bufmem ∧ State.reset.dev.wf := by
  refine ⟨?_, ?_, ?_, ?_, ?_, ?_⟩ <;> simp [State.reset, FlashChip.initial, Memory.wf]

end Sys2Proof.Machine
end

