-- ==== Sys2Proof/Laws/Ops.lean ====
section
/-!
SUPPORT. What each shared operation can do, said once: issuing a command, the memory primitives, the flash chip on the
bus, chip select, and the step itself. The provers cite these instead of unfolding the operations.
-/

namespace Sys2Proof.Machine

/-! ## The flash chip (20_memory.md R52): an act on a frame touches the chip and the free-value counter alone -/

@[simp] theorem enableWrites_reg (l : List Byte) (s : State) : (enableWrites l s).reg = s.reg := by
  unfold enableWrites; repeat' split
  all_goals rfl
@[simp] theorem enableWrites_op (l : List Byte) (s : State) : (enableWrites l s).op = s.op := by
  unfold enableWrites; repeat' split
  all_goals rfl
@[simp] theorem enableWrites_res (l : List Byte) (s : State) : (enableWrites l s).res = s.res := by
  unfold enableWrites; repeat' split
  all_goals rfl
@[simp] theorem enableWrites_arb (l : List Byte) (s : State) : (enableWrites l s).arb = s.arb := by
  unfold enableWrites; repeat' split
  all_goals rfl
@[simp] theorem enableWrites_i2c (l : List Byte) (s : State) : (enableWrites l s).i2c = s.i2c := by
  unfold enableWrites; repeat' split
  all_goals rfl
@[simp] theorem enableWrites_fl (l : List Byte) (s : State) : (enableWrites l s).fl = s.fl := by
  unfold enableWrites; repeat' split
  all_goals rfl
@[simp] theorem enableWrites_bufmem (l : List Byte) (s : State) : (enableWrites l s).bufmem = s.bufmem := by
  unfold enableWrites; repeat' split
  all_goals rfl
@[simp] theorem enableWrites_fault (l : List Byte) (s : State) : (enableWrites l s).fault = s.fault := by
  unfold enableWrites; repeat' split
  all_goals rfl
@[simp] theorem enableWrites_fcode (l : List Byte) (s : State) : (enableWrites l s).fcode = s.fcode := by
  unfold enableWrites; repeat' split
  all_goals rfl
@[simp] theorem enableWrites_par (l : List Byte) (s : State) : (enableWrites l s).par = s.par := by
  unfold enableWrites; repeat' split
  all_goals rfl
@[simp] theorem enableWrites_rdata (l : List Byte) (s : State) : (enableWrites l s).rdata = s.rdata := by
  unfold enableWrites; repeat' split
  all_goals rfl
@[simp] theorem enableWrites_epoch (l : List Byte) (s : State) : (enableWrites l s).epoch = s.epoch := by
  unfold enableWrites; repeat' split
  all_goals rfl
@[simp] theorem enableWrites_moves (l : List Byte) (s : State) : (enableWrites l s).moves = s.moves := by
  unfold enableWrites; repeat' split
  all_goals rfl
@[simp] theorem enableWrites_spi (l : List Byte) (s : State) : (enableWrites l s).spi = s.spi := by
  unfold enableWrites; repeat' split
  all_goals rfl
@[simp] theorem enableWrites_cs (l : List Byte) (s : State) : (enableWrites l s).cs = s.cs := by
  unfold enableWrites; repeat' split
  all_goals rfl

@[simp] theorem eraseSector_reg (l : List Byte) (s : State) : (eraseSector l s).reg = s.reg := by
  unfold eraseSector; repeat' split
  all_goals rfl
@[simp] theorem eraseSector_op (l : List Byte) (s : State) : (eraseSector l s).op = s.op := by
  unfold eraseSector; repeat' split
  all_goals rfl
@[simp] theorem eraseSector_res (l : List Byte) (s : State) : (eraseSector l s).res = s.res := by
  unfold eraseSector; repeat' split
  all_goals rfl
@[simp] theorem eraseSector_arb (l : List Byte) (s : State) : (eraseSector l s).arb = s.arb := by
  unfold eraseSector; repeat' split
  all_goals rfl
@[simp] theorem eraseSector_i2c (l : List Byte) (s : State) : (eraseSector l s).i2c = s.i2c := by
  unfold eraseSector; repeat' split
  all_goals rfl
@[simp] theorem eraseSector_fl (l : List Byte) (s : State) : (eraseSector l s).fl = s.fl := by
  unfold eraseSector; repeat' split
  all_goals rfl
@[simp] theorem eraseSector_bufmem (l : List Byte) (s : State) : (eraseSector l s).bufmem = s.bufmem := by
  unfold eraseSector; repeat' split
  all_goals rfl
@[simp] theorem eraseSector_fault (l : List Byte) (s : State) : (eraseSector l s).fault = s.fault := by
  unfold eraseSector; repeat' split
  all_goals rfl
@[simp] theorem eraseSector_fcode (l : List Byte) (s : State) : (eraseSector l s).fcode = s.fcode := by
  unfold eraseSector; repeat' split
  all_goals rfl
@[simp] theorem eraseSector_par (l : List Byte) (s : State) : (eraseSector l s).par = s.par := by
  unfold eraseSector; repeat' split
  all_goals rfl
@[simp] theorem eraseSector_rdata (l : List Byte) (s : State) : (eraseSector l s).rdata = s.rdata := by
  unfold eraseSector; repeat' split
  all_goals rfl
@[simp] theorem eraseSector_epoch (l : List Byte) (s : State) : (eraseSector l s).epoch = s.epoch := by
  unfold eraseSector; repeat' split
  all_goals rfl
@[simp] theorem eraseSector_moves (l : List Byte) (s : State) : (eraseSector l s).moves = s.moves := by
  unfold eraseSector; repeat' split
  all_goals rfl
@[simp] theorem eraseSector_spi (l : List Byte) (s : State) : (eraseSector l s).spi = s.spi := by
  unfold eraseSector; repeat' split
  all_goals rfl
@[simp] theorem eraseSector_cs (l : List Byte) (s : State) : (eraseSector l s).cs = s.cs := by
  unfold eraseSector; repeat' split
  all_goals rfl

@[simp] theorem programPage_reg (l : List Byte) (s : State) : (programPage l s).reg = s.reg := by
  unfold programPage; repeat' split
  all_goals rfl
@[simp] theorem programPage_op (l : List Byte) (s : State) : (programPage l s).op = s.op := by
  unfold programPage; repeat' split
  all_goals rfl
@[simp] theorem programPage_res (l : List Byte) (s : State) : (programPage l s).res = s.res := by
  unfold programPage; repeat' split
  all_goals rfl
@[simp] theorem programPage_arb (l : List Byte) (s : State) : (programPage l s).arb = s.arb := by
  unfold programPage; repeat' split
  all_goals rfl
@[simp] theorem programPage_i2c (l : List Byte) (s : State) : (programPage l s).i2c = s.i2c := by
  unfold programPage; repeat' split
  all_goals rfl
@[simp] theorem programPage_fl (l : List Byte) (s : State) : (programPage l s).fl = s.fl := by
  unfold programPage; repeat' split
  all_goals rfl
@[simp] theorem programPage_bufmem (l : List Byte) (s : State) : (programPage l s).bufmem = s.bufmem := by
  unfold programPage; repeat' split
  all_goals rfl
@[simp] theorem programPage_fault (l : List Byte) (s : State) : (programPage l s).fault = s.fault := by
  unfold programPage; repeat' split
  all_goals rfl
@[simp] theorem programPage_fcode (l : List Byte) (s : State) : (programPage l s).fcode = s.fcode := by
  unfold programPage; repeat' split
  all_goals rfl
@[simp] theorem programPage_par (l : List Byte) (s : State) : (programPage l s).par = s.par := by
  unfold programPage; repeat' split
  all_goals rfl
@[simp] theorem programPage_rdata (l : List Byte) (s : State) : (programPage l s).rdata = s.rdata := by
  unfold programPage; repeat' split
  all_goals rfl
@[simp] theorem programPage_epoch (l : List Byte) (s : State) : (programPage l s).epoch = s.epoch := by
  unfold programPage; repeat' split
  all_goals rfl
@[simp] theorem programPage_moves (l : List Byte) (s : State) : (programPage l s).moves = s.moves := by
  unfold programPage; repeat' split
  all_goals rfl
@[simp] theorem programPage_spi (l : List Byte) (s : State) : (programPage l s).spi = s.spi := by
  unfold programPage; repeat' split
  all_goals rfl
@[simp] theorem programPage_cs (l : List Byte) (s : State) : (programPage l s).cs = s.cs := by
  unfold programPage; repeat' split
  all_goals rfl

/-- The six frames, in the one form they share: which byte is supplied, which act is performed. -/
theorem runFrame_eq_respond (c : FrameCmd) (tail : List Byte) (s : State) :
    ∃ b act, runFrame c tail s = respond b act s ∧
      (act = id ∨ act = enableWrites tail ∨ act = eraseSector tail ∨ act = programPage tail) := by
  cases c
  · exact ⟨_, id, rfl, .inl rfl⟩
  · exact ⟨_, id, rfl, .inl rfl⟩
  · exact ⟨_, _, rfl, .inr (.inl rfl)⟩
  · exact ⟨_, _, rfl, .inr (.inr (.inl rfl))⟩
  · exact ⟨_, _, rfl, .inr (.inr (.inr rfl))⟩
  · exact ⟨_, id, rfl, .inl rfl⟩

@[simp] theorem runFrame_reg (c : FrameCmd) (l : List Byte) (s : State) : (runFrame c l s).reg = s.reg := by
  obtain ⟨b, act, h, h' | h' | h' | h'⟩ := runFrame_eq_respond c l s <;> rw [h, h'] <;> unfold respond <;> split <;> simp
@[simp] theorem runFrame_op (c : FrameCmd) (l : List Byte) (s : State) : (runFrame c l s).op = s.op := by
  obtain ⟨b, act, h, h' | h' | h' | h'⟩ := runFrame_eq_respond c l s <;> rw [h, h'] <;> unfold respond <;> split <;> simp
@[simp] theorem runFrame_res (c : FrameCmd) (l : List Byte) (s : State) : (runFrame c l s).res = s.res := by
  obtain ⟨b, act, h, h' | h' | h' | h'⟩ := runFrame_eq_respond c l s <;> rw [h, h'] <;> unfold respond <;> split <;> simp
@[simp] theorem runFrame_arb (c : FrameCmd) (l : List Byte) (s : State) : (runFrame c l s).arb = s.arb := by
  obtain ⟨b, act, h, h' | h' | h' | h'⟩ := runFrame_eq_respond c l s <;> rw [h, h'] <;> unfold respond <;> split <;> simp
@[simp] theorem runFrame_i2c (c : FrameCmd) (l : List Byte) (s : State) : (runFrame c l s).i2c = s.i2c := by
  obtain ⟨b, act, h, h' | h' | h' | h'⟩ := runFrame_eq_respond c l s <;> rw [h, h'] <;> unfold respond <;> split <;> simp
@[simp] theorem runFrame_fl (c : FrameCmd) (l : List Byte) (s : State) : (runFrame c l s).fl = s.fl := by
  obtain ⟨b, act, h, h' | h' | h' | h'⟩ := runFrame_eq_respond c l s <;> rw [h, h'] <;> unfold respond <;> split <;> simp
@[simp] theorem runFrame_bufmem (c : FrameCmd) (l : List Byte) (s : State) : (runFrame c l s).bufmem = s.bufmem := by
  obtain ⟨b, act, h, h' | h' | h' | h'⟩ := runFrame_eq_respond c l s <;> rw [h, h'] <;> unfold respond <;> split <;> simp
@[simp] theorem runFrame_fault (c : FrameCmd) (l : List Byte) (s : State) : (runFrame c l s).fault = s.fault := by
  obtain ⟨b, act, h, h' | h' | h' | h'⟩ := runFrame_eq_respond c l s <;> rw [h, h'] <;> unfold respond <;> split <;> simp
@[simp] theorem runFrame_fcode (c : FrameCmd) (l : List Byte) (s : State) : (runFrame c l s).fcode = s.fcode := by
  obtain ⟨b, act, h, h' | h' | h' | h'⟩ := runFrame_eq_respond c l s <;> rw [h, h'] <;> unfold respond <;> split <;> simp
@[simp] theorem runFrame_par (c : FrameCmd) (l : List Byte) (s : State) : (runFrame c l s).par = s.par := by
  obtain ⟨b, act, h, h' | h' | h' | h'⟩ := runFrame_eq_respond c l s <;> rw [h, h'] <;> unfold respond <;> split <;> simp
@[simp] theorem runFrame_rdata (c : FrameCmd) (l : List Byte) (s : State) : (runFrame c l s).rdata = s.rdata := by
  obtain ⟨b, act, h, h' | h' | h' | h'⟩ := runFrame_eq_respond c l s <;> rw [h, h'] <;> unfold respond <;> split <;> simp
@[simp] theorem runFrame_epoch (c : FrameCmd) (l : List Byte) (s : State) : (runFrame c l s).epoch = s.epoch := by
  obtain ⟨b, act, h, h' | h' | h' | h'⟩ := runFrame_eq_respond c l s <;> rw [h, h'] <;> unfold respond <;> split <;> simp
@[simp] theorem runFrame_moves (c : FrameCmd) (l : List Byte) (s : State) : (runFrame c l s).moves = s.moves := by
  obtain ⟨b, act, h, h' | h' | h' | h'⟩ := runFrame_eq_respond c l s <;> rw [h, h'] <;> unfold respond <;> split <;> simp
@[simp] theorem runFrame_cs (c : FrameCmd) (l : List Byte) (s : State) : (runFrame c l s).cs = s.cs := by
  obtain ⟨b, act, h, h' | h' | h' | h'⟩ := runFrame_eq_respond c l s <;> rw [h, h'] <;> unfold respond <;> split <;> simp

/-- With chip select high a frame leaves the SPI engine alone. -/
theorem runFrame_spi_of_high (c : FrameCmd) (l : List Byte) (s : State) (hc : s.cs = true) :
    (runFrame c l s).spi = s.spi := by
  obtain ⟨b, act, h, h' | h' | h' | h'⟩ := runFrame_eq_respond c l s <;> rw [h, h'] <;> simp [respond, hc]

/-- A frame writes at most the receive register of the SPI engine. -/
theorem runFrame_spi (c : FrameCmd) (l : List Byte) (s : State) :
    (runFrame c l s).spi = { s.spi with rxbuf := (runFrame c l s).spi.rxbuf } := by
  obtain ⟨b, act, h, h' | h' | h' | h'⟩ := runFrame_eq_respond c l s <;> rw [h, h'] <;> unfold respond <;>
    split <;> simp

/-- The instruction of a frame runs as the chip runs the frame. -/
theorem exec_frame (c : FrameCmd) (l : List Byte) (s : State) : exec (c.instr l) s = .next (runFrame c l s) := by
  cases c <;> rfl

/-! ## What the chip does with a frame (20_memory.md R56, R57, R58) -/

theorem enableWrites_sets {s : State} (hw : s.dev.wip = false) :
    enableWrites [] s = { s with dev := { s.dev with wel := true } } := by simp [enableWrites, hw]

theorem enableWrites_ignored {l : List Byte} {s : State} (h : l ≠ [] ∨ s.dev.wip = true) : enableWrites l s = s := by
  unfold enableWrites
  rw [if_neg]
  rintro ⟨h1, h2⟩
  simp [h1, h2] at h

theorem eraseSector_erases {l : List Byte} {a : FlashAddr} {s : State} (ha : frameAddr? l = some a) (hl : l.length = 3)
    (h1 : s.dev.wel = true) (h2 : s.dev.wip = false) :
    eraseSector l s =
      { s with dev := { flashEraseSector s.dev (sectorOf a.toNat) with wel := false, wip := true } } := by
  simp [eraseSector, ha, hl, h1, h2]

theorem eraseSector_ignored {l : List Byte} {s : State} (h : l.length ≠ 3 ∨ s.dev.wel = false ∨ s.dev.wip = true) :
    eraseSector l s = s := by
  unfold eraseSector
  split
  · rfl
  · rw [if_neg]
    rintro ⟨h1, h2, h3⟩
    simp [h1, h2, h3] at h

theorem programPage_fits {l : List Byte} {a : FlashAddr} {s : State} (ha : frameAddr? l = some a)
    (h1 : s.dev.wel = true) (h2 : s.dev.wip = false) (hl : (framePayload l).length ≤ Config.pageBytes) :
    programPage l s =
      { s with dev := { programBytes s.dev a.toNat 0 (framePayload l) with wel := false, wip := true } } := by
  unfold programPage
  rw [ha]
  simp only [h1, h2, and_self, if_true]
  rw [if_pos hl]

theorem programPage_scrambles {l : List Byte} {a : FlashAddr} {s : State} (ha : frameAddr? l = some a)
    (h1 : s.dev.wel = true) (h2 : s.dev.wip = false) (hl : Config.pageBytes < (framePayload l).length) :
    ∃ c, programPage l s =
        { s with dev := { c with wel := false, wip := true }, draws := s.draws + Config.pageBytes } ∧
      ∀ x, x < a.toNat - a.toNat % Config.pageBytes ∨ a.toNat - a.toNat % Config.pageBytes + Config.pageBytes ≤ x →
        flashByte c x = flashByte s.dev x := by
  refine ⟨_, ?_, fun x hx => flashByte_scrambleBytes s.dev s.draws hx⟩
  unfold programPage
  rw [ha]
  simp only [h1, h2, and_self, if_true]
  rw [if_neg (Nat.not_le.2 hl)]

theorem programPage_ignored {l : List Byte} {s : State}
    (h : frameAddr? l = none ∨ s.dev.wel = false ∨ s.dev.wip = true) : programPage l s = s := by
  unfold programPage
  split
  · rfl
  · rename_i a ha
    rw [if_neg]
    rintro ⟨h1, h2⟩
    simp [h1, h2, ha] at h

/-- A frame of fewer than three bytes after its command carries no address. -/
theorem frameAddr?_short {l : List Byte} (h : l.length < 3) : frameAddr? l = none := by
  match l, h with
  | [], _ => rfl
  | [_], _ => rfl
  | [_, _], _ => rfl
  | _ :: _ :: _ :: _, h => simp at h; omega

/-! ## Chip select and the clocked byte -/

@[simp] theorem csHigh_reg (s : State) : (csHigh s).reg = s.reg := by
  unfold csHigh; repeat' split
  all_goals simp
@[simp] theorem csHigh_op (s : State) : (csHigh s).op = s.op := by
  unfold csHigh; repeat' split
  all_goals simp
@[simp] theorem csHigh_res (s : State) : (csHigh s).res = s.res := by
  unfold csHigh; repeat' split
  all_goals simp
@[simp] theorem csHigh_arb (s : State) : (csHigh s).arb = s.arb := by
  unfold csHigh; repeat' split
  all_goals simp
@[simp] theorem csHigh_i2c (s : State) : (csHigh s).i2c = s.i2c := by
  unfold csHigh; repeat' split
  all_goals simp
@[simp] theorem csHigh_fl (s : State) : (csHigh s).fl = s.fl := by
  unfold csHigh; repeat' split
  all_goals simp
@[simp] theorem csHigh_bufmem (s : State) : (csHigh s).bufmem = s.bufmem := by
  unfold csHigh; repeat' split
  all_goals simp
@[simp] theorem csHigh_fault (s : State) : (csHigh s).fault = s.fault := by
  unfold csHigh; repeat' split
  all_goals simp
@[simp] theorem csHigh_fcode (s : State) : (csHigh s).fcode = s.fcode := by
  unfold csHigh; repeat' split
  all_goals simp
@[simp] theorem csHigh_par (s : State) : (csHigh s).par = s.par := by
  unfold csHigh; repeat' split
  all_goals simp
@[simp] theorem csHigh_rdata (s : State) : (csHigh s).rdata = s.rdata := by
  unfold csHigh; repeat' split
  all_goals simp
@[simp] theorem csHigh_epoch (s : State) : (csHigh s).epoch = s.epoch := by
  unfold csHigh; repeat' split
  all_goals simp
@[simp] theorem csHigh_moves (s : State) : (csHigh s).moves = s.moves := by
  unfold csHigh; repeat' split
  all_goals simp
@[simp] theorem csHigh_spi (s : State) : (csHigh s).spi = s.spi := by
  unfold csHigh; repeat' split
  all_goals simp [runFrame_spi_of_high]
@[simp] theorem csLow_reg (s : State) : (csLow s).reg = s.reg := by
  unfold csLow; repeat' split
  all_goals simp
@[simp] theorem csLow_op (s : State) : (csLow s).op = s.op := by
  unfold csLow; repeat' split
  all_goals simp
@[simp] theorem csLow_res (s : State) : (csLow s).res = s.res := by
  unfold csLow; repeat' split
  all_goals simp
@[simp] theorem csLow_arb (s : State) : (csLow s).arb = s.arb := by
  unfold csLow; repeat' split
  all_goals simp
@[simp] theorem csLow_i2c (s : State) : (csLow s).i2c = s.i2c := by
  unfold csLow; repeat' split
  all_goals simp
@[simp] theorem csLow_fl (s : State) : (csLow s).fl = s.fl := by
  unfold csLow; repeat' split
  all_goals simp
@[simp] theorem csLow_bufmem (s : State) : (csLow s).bufmem = s.bufmem := by
  unfold csLow; repeat' split
  all_goals simp
@[simp] theorem csLow_fault (s : State) : (csLow s).fault = s.fault := by
  unfold csLow; repeat' split
  all_goals simp
@[simp] theorem csLow_fcode (s : State) : (csLow s).fcode = s.fcode := by
  unfold csLow; repeat' split
  all_goals simp
@[simp] theorem csLow_par (s : State) : (csLow s).par = s.par := by
  unfold csLow; repeat' split
  all_goals simp
@[simp] theorem csLow_rdata (s : State) : (csLow s).rdata = s.rdata := by
  unfold csLow; repeat' split
  all_goals simp
@[simp] theorem csLow_epoch (s : State) : (csLow s).epoch = s.epoch := by
  unfold csLow; repeat' split
  all_goals simp
@[simp] theorem csLow_moves (s : State) : (csLow s).moves = s.moves := by
  unfold csLow; repeat' split
  all_goals simp
@[simp] theorem csLow_spi (s : State) : (csLow s).spi = s.spi := by
  unfold csLow; repeat' split
  all_goals simp
@[simp] theorem chipShift_reg (s : State) : (chipShift s).reg = s.reg := by
  unfold chipShift; repeat' split
  all_goals simp
@[simp] theorem chipShift_op (s : State) : (chipShift s).op = s.op := by
  unfold chipShift; repeat' split
  all_goals simp
@[simp] theorem chipShift_res (s : State) : (chipShift s).res = s.res := by
  unfold chipShift; repeat' split
  all_goals simp
@[simp] theorem chipShift_arb (s : State) : (chipShift s).arb = s.arb := by
  unfold chipShift; repeat' split
  all_goals simp
@[simp] theorem chipShift_i2c (s : State) : (chipShift s).i2c = s.i2c := by
  unfold chipShift; repeat' split
  all_goals simp
@[simp] theorem chipShift_fl (s : State) : (chipShift s).fl = s.fl := by
  unfold chipShift; repeat' split
  all_goals simp
@[simp] theorem chipShift_bufmem (s : State) : (chipShift s).bufmem = s.bufmem := by
  unfold chipShift; repeat' split
  all_goals simp
@[simp] theorem chipShift_fault (s : State) : (chipShift s).fault = s.fault := by
  unfold chipShift; repeat' split
  all_goals simp
@[simp] theorem chipShift_fcode (s : State) : (chipShift s).fcode = s.fcode := by
  unfold chipShift; repeat' split
  all_goals simp
@[simp] theorem chipShift_par (s : State) : (chipShift s).par = s.par := by
  unfold chipShift; repeat' split
  all_goals simp
@[simp] theorem chipShift_rdata (s : State) : (chipShift s).rdata = s.rdata := by
  unfold chipShift; repeat' split
  all_goals simp
@[simp] theorem chipShift_epoch (s : State) : (chipShift s).epoch = s.epoch := by
  unfold chipShift; repeat' split
  all_goals simp
@[simp] theorem chipShift_moves (s : State) : (chipShift s).moves = s.moves := by
  unfold chipShift; repeat' split
  all_goals simp
@[simp] theorem chipShift_cs (s : State) : (chipShift s).cs = s.cs := by
  unfold chipShift; repeat' split
  all_goals simp

@[simp] theorem csHigh_cs (s : State) : (csHigh s).cs = true := by
  unfold csHigh; repeat' split
  all_goals simp_all

@[simp] theorem csLow_cs (s : State) : (csLow s).cs = false := by
  unfold csLow; repeat' split
  all_goals simp_all

@[simp] theorem csLow_draws (s : State) : (csLow s).draws = s.draws := by
  unfold csLow; repeat' split
  all_goals simp

/-- The clocked byte ends in the receive register, and in no other register of the SPI engine. -/
theorem chipShift_spi (s : State) : (chipShift s).spi = { s.spi with rxbuf := (chipShift s).spi.rxbuf } := by
  unfold chipShift; repeat' split
  · rfl
  · rfl
  · exact runFrame_spi _ _ _
  · rfl

@[simp] theorem spiBusy_csHigh (s : State) : spiBusy (csHigh s) = spiBusy s := by simp [spiBusy]

@[simp] theorem spiBusy_csLow (s : State) : spiBusy (csLow s) = spiBusy s := by simp [spiBusy]

/-! ## The flash chip's memory stays in its form -/

theorem frameAddr?_toNat_lt {l : List Byte} {a : FlashAddr} (_h : frameAddr? l = some a) :
    a.toNat < Config.flashBytes := by
  have := a.isLt
  norm_num at this
  simpa [Config.flashBytes] using this

theorem runFrame_dev_wf (c : FrameCmd) (l : List Byte) (s : State) (h : s.dev.wf) : (runFrame c l s).dev.wf := by
  obtain ⟨b, act, hr, h' | h' | h' | h'⟩ := runFrame_eq_respond c l s <;> rw [hr, h'] <;> unfold respond <;> split
  · exact h
  · exact h
  · unfold enableWrites; split <;> exact h
  · exact h
  · unfold eraseSector
    split
    · exact h
    · split
      · rename_i a ha _
        refine flashEraseSector_wf h ?_
        have := frameAddr?_toNat_lt ha
        simp only [sectorOf, Config.sectorBytes, Config.flashBytes] at *
        omega
      · exact h
  · exact h
  · unfold programPage
    split
    · exact h
    · rename_i a ha
      have hlt := frameAddr?_toNat_lt ha
      split
      · split
        · exact programBytes_wf h hlt 0 _
        · have hle : a.toNat - a.toNat % Config.pageBytes + Config.pageBytes ≤ Config.flashBytes := by
            simp only [Config.pageBytes, Config.flashBytes] at *
            omega
          have hw := scrambleBytes_wf (k := s.draws) h hle
          generalize scrambleBytes s.dev _ _ _ = d at hw ⊢
          exact hw
      · exact h
  · exact h

theorem csHigh_dev_wf (s : State) (h : s.dev.wf) : (csHigh s).dev.wf := by
  unfold csHigh; repeat' split
  · exact h
  · exact h
  · exact runFrame_dev_wf _ _ _ h
  · exact h

theorem csLow_dev_wf (s : State) (h : s.dev.wf) : (csLow s).dev.wf := by
  unfold csLow; repeat' split
  all_goals exact h

/-- While chip select is low every frame exchanges one byte and does nothing else: only the MISO byte is the command's own. -/
theorem runFrame_low (c : FrameCmd) (l : List Byte) {s : State} (h : s.cs = false) :
    ∃ r, runFrame c l s =
      { s with spi := { s.spi with rxbuf := r }, dev := { s.dev with frame := s.dev.frame ++ [s.spi.shreg] } } := by
  cases c <;>
    exact ⟨_, by simp only [runFrame, frameReadId, frameRead, frameWriteEnable, frameSectorErase, framePageProgram,
      frameReadStatus, respond, h, exchangeByte]; rfl⟩

/-- What a rise of chip select does to a frame depends on the chip and the draws alone. -/
theorem runFrame_rise (c : FrameCmd) (l : List Byte) {s u : State} (hs : s.cs = true) (hu : u.cs = true)
    (hd : u.dev = s.dev) (hn : u.draws = s.draws) :
    runFrame c l u = { u with dev := (runFrame c l s).dev, draws := (runFrame c l s).draws } := by
  rcases u with ⟨⟩
  rcases s with ⟨⟩
  subst hs hu hd hn
  cases c <;>
    simp only [runFrame, frameReadId, frameRead, frameWriteEnable, frameSectorErase, framePageProgram, frameReadStatus,
      respond, clearFrame, id, if_true, enableWrites, eraseSector, programPage]
  all_goals repeat' split
  all_goals rfl

/-- Raising chip select writes the line, the chip and the draws, and what it writes there depends on the line, the
parameters, the chip and the draws alone. -/
theorem csHigh_eq {s u : State} (hc : u.cs = s.cs) (hp : u.par = s.par) (hd : u.dev = s.dev) (hn : u.draws = s.draws) :
    csHigh u = { u with cs := true, dev := (csHigh s).dev, draws := (csHigh s).draws } := by
  by_cases h : s.cs = true
  · simp only [csHigh, hc, h, if_true, ← hd, ← hn]
    rw [← hc.trans h]
  · cases hf : s.par.flash with
    | unconstrained => simp [csHigh, hc, h, hp, hf, ← hd, ← hn]
    | reference =>
      cases hx : frameParts s.dev.frame with
      | error e => simp [csHigh, hc, h, hp, hf, hd, hx, clearFrame, ← hn]
      | ok p =>
        simp only [csHigh, hc, h, hp, hf, hd, hx]
        rw [← hd]
        exact runFrame_rise _ _ rfl rfl rfl hn

/-- Raising chip select, in the state it is raised in. -/
theorem csHigh_self (s : State) :
    csHigh s = { s with cs := true, dev := (csHigh s).dev, draws := (csHigh s).draws } := csHigh_eq rfl rfl rfl rfl

/-- Lowering chip select writes the line and the chip, and what it writes there depends on the line, the parameters and the
chip alone. -/
theorem csLow_eq {s u : State} (hc : u.cs = s.cs) (hp : u.par = s.par) (hd : u.dev = s.dev) :
    csLow u = { u with cs := false, dev := (csLow s).dev } := by
  by_cases h : s.cs = true
  · cases hf : s.par.flash <;> simp [csLow, hc, h, hp, hf, hd, clearFrame]
  · have h' : u.cs = false := hc.trans (by simpa using h)
    have e1 : csLow u = u := by simp [csLow, h']
    have e2 : csLow s = s := by simp [csLow, h]
    rw [e1, e2, ← hd, ← h']

theorem chipShift_dev_wf (s : State) (h : s.dev.wf) : (chipShift s).dev.wf := by
  unfold chipShift; repeat' split
  · exact h
  · exact h
  · exact runFrame_dev_wf _ _ _ h
  · exact h

/-! ## The memory primitives (20_memory.md R36) -/

theorem memRead_ok {i : Nat} {s : State} {v : Byte} (h : memRead i s = .ok v) :
    i < s.par.bufBytes ∧ v = bufByte s i := by
  unfold memRead at h
  split at h
  · exact ⟨by assumption, by simpa using h.symm⟩
  · cases h

theorem memWrite_ok {i : Nat} {v : Byte} {s t : State} (h : memWrite i v s = .ok t) :
    i < s.par.bufBytes ∧ t = setBufByte s i v := by
  unfold memWrite at h
  split at h
  · exact ⟨by assumption, by simpa using h.symm⟩
  · cases h

/-- A destination write stores one byte of the memory it names. -/
theorem dstWrite_ok {m : SpiMem} {i : Nat} {v : Byte} {s t : State} (h : dstWrite m i v s = .ok t) :
    i < spiMemSize m s ∧
      ((m = .buf ∧ t = setBufByte s i v) ∨
       (m = .hdr ∧ ∃ g, hdrSet? s.fl.hdr i v = some g ∧ t = { s with fl := { s.fl with hdr := g } }) ∨
       (m = .sr ∧ t = { s with fl := { s.fl with sr := v } })) := by
  cases m with
  | buf =>
    obtain ⟨h1, h2⟩ := memWrite_ok h
    exact ⟨h1, .inl ⟨rfl, h2⟩⟩
  | hdr =>
    simp only [dstWrite] at h
    split at h
    · rename_i g hg
      have : i < 4 := by
        rcases i with _ | _ | _ | _ | i <;> first | omega | (simp [hdrSet?] at hg)
      exact ⟨this, .inr (.inl ⟨rfl, g, hg, by simpa using h.symm⟩)⟩
    · cases h
  | sr =>
    simp only [dstWrite] at h
    split at h
    · rename_i hi
      subst hi
      exact ⟨by simp [spiMemSize], .inr (.inr ⟨rfl, by simpa using h.symm⟩)⟩
    · cases h

theorem srcRead_of_lt {m : SpiMem} {i : Nat} {s : State} (h : i < spiMemSize m s) : ∃ v, srcRead m i s = .ok v := by
  cases m with
  | buf => exact ⟨bufByte s i, by simp [srcRead, memRead, show i < s.par.bufBytes from h]⟩
  | hdr =>
    have h4 : i < 4 := h
    rcases i with _ | _ | _ | _ | i
    all_goals first | exact ⟨_, rfl⟩ | omega
  | sr =>
    have h1 : i < 1 := h
    obtain rfl : i = 0 := by omega
    exact ⟨_, rfl⟩

theorem dstWrite_of_lt {m : SpiMem} {i : Nat} {v : Byte} {s : State} (h : i < spiMemSize m s) :
    ∃ t, dstWrite m i v s = .ok t := by
  cases m with
  | buf => exact ⟨setBufByte s i v, by simp [dstWrite, memWrite, show i < s.par.bufBytes from h]⟩
  | hdr =>
    have h4 : i < 4 := h
    rcases i with _ | _ | _ | _ | i
    all_goals first | exact ⟨_, rfl⟩ | omega
  | sr =>
    have h1 : i < 1 := h
    obtain rfl : i = 0 := by omega
    exact ⟨_, rfl⟩

/-! ## Issuing a command (30_encoding.md R64) -/

/-- Everything a `CMD` write of a legal word can do. -/
theorem issue_cases {o : Opcode} {stop : Bool} {effect : State → Except FaultCode State} {s t : State}
    (h : issue o stop effect s = .next t) :
    (s.fault = true ∧ t = s) ∨
    (s.fault = false ∧ s.op.opc ≠ none ∧ t = raiseFault .busyCmd s) ∨
    (s.fault = false ∧ s.op.opc = none ∧ ∃ f, issueCheck o s = some f ∧ t = raiseFault f s) ∨
    (s.fault = false ∧ s.op.opc = none ∧ issueCheck o s = none ∧
      ∃ f, effect (latchOp o stop s) = .error f ∧ t = raiseFault f s) ∨
    (s.fault = false ∧ s.op.opc = none ∧ issueCheck o s = none ∧ effect (latchOp o stop s) = .ok t) := by
  unfold issue at h
  split at h
  · simp_all
  · split at h
    · rename_i hs
      have : s.op.opc ≠ none := by intro hn; simp [hn] at hs
      simp_all
    · rename_i hs
      have hn : s.op.opc = none := by simpa using hs
      split at h
      · rename_i f hf
        exact .inr (.inr (.inl ⟨by simp_all, hn, f, hf, by simp_all⟩))
      · rename_i hf
        split at h
        · rename_i f he
          exact .inr (.inr (.inr (.inl ⟨by simp_all, hn, hf, f, he, by simp_all⟩)))
        · exact .inr (.inr (.inr (.inr ⟨by simp_all, hn, hf, by simp_all⟩)))

/-- A command that is not turned away has its effect. -/
theorem issue_accepts {o : Opcode} {stop : Bool} {effect : State → Except FaultCode State} {s t : State}
    (hf : s.fault = false) (ho : s.op.opc = none) (hc : issueCheck o s = none)
    (he : effect (latchOp o stop s) = .ok t) : issue o stop effect s = .next t := by
  simp [issue, hf, ho, hc, he]

/-- A command always takes a next state. -/
theorem issue_next (o : Opcode) (stop : Bool) (effect : State → Except FaultCode State) (s : State) :
    ∃ t, issue o stop effect s = .next t := by
  unfold issue
  repeat' split
  all_goals exact ⟨_, rfl⟩

/-! ## The commands as issues (30_encoding.md R64) -/

theorem exec_bindTx (s : State) : exec .bindTx s = issue .bindTx false Machine.bindTx s := rfl
theorem exec_bindRx (s : State) : exec .bindRx s = issue .bindRx false Machine.bindRx s := rfl
theorem exec_i2cInit (s : State) : exec .i2cInit s = issue .i2cInit false Machine.i2cInit s := rfl
theorem exec_i2cRead (s : State) : exec .i2cRead s = issue .i2cRead false Machine.i2cRead s := rfl
theorem exec_spiInit (s : State) : exec .spiInit s = issue .spiInit false Machine.spiInit s := rfl
theorem exec_spiWrite (s : State) : exec .spiWrite s = issue .spiWrite false Machine.spiWrite s := rfl
theorem exec_spiRead (s : State) : exec .spiRead s = issue .spiRead false Machine.spiRead s := rfl
theorem exec_spiBusy (s : State) : exec .spiBusy s = issue .spiBusy false Machine.spiBusyQuery s := rfl
theorem exec_spiCsLow (s : State) : exec .spiCsLow s = issue .spiCsLow false Machine.spiCsLow s := rfl
theorem exec_spiCsHigh (s : State) : exec .spiCsHigh s = issue .spiCsHigh false Machine.spiCsHigh s := rfl
theorem exec_flashInit (s : State) : exec .flashInit s = issue .flashInit false Machine.flashInit s := rfl
theorem exec_flashReadId (s : State) : exec .flashReadId s = issue .flashReadId false Machine.flashReadId s := rfl
theorem exec_flashRead (s : State) : exec .flashRead s = issue .flashRead false Machine.flashRead s := rfl
theorem exec_flashWrite (s : State) : exec .flashWrite s = issue .flashWrite false Machine.flashWrite s := rfl
theorem exec_flashBusy (s : State) : exec .flashBusy s = issue .flashBusy false Machine.flashBusy s := rfl
theorem exec_i2cWrite (stop : Bool) (s : State) : exec (.i2cWrite stop) s = issue .i2cWrite stop Machine.i2cWrite s := rfl

/-! ## The issue checks, command by command (60_exceptions.md R135) -/

theorem owns_iff (e : Engine) (s : State) :
    owns e s = true ↔ s.arb.mode = e ∧ s.arb.tx = some e ∧ s.arb.rx = some e := by
  simp [owns, and_assoc]

theorem issueCheck_bindTx (s : State) : issueCheck .bindTx s = none := by
  simp [issueCheck, needsI2c, needsSpi, isInit, readsLength, usesBuffer, bufferFits]

theorem issueCheck_bindRx (s : State) : issueCheck .bindRx s = none := by
  simp [issueCheck, needsI2c, needsSpi, isInit, readsLength, usesBuffer, bufferFits]

theorem issueCheck_i2cInit (s : State) :
    issueCheck .i2cInit s = none ↔ s.i2c.stopping = false ∧ spiBusy s = false := by
  simp [issueCheck, needsI2c, needsSpi, isInit, readsLength, usesBuffer, bufferFits]

theorem issueCheck_i2cWrite (s : State) :
    issueCheck .i2cWrite s = none ↔ owns .i2c s = true ∧ s.i2c.stopping = false ∧ s.reg.buf.toNat + s.reg.len.toNat ≤ s.par.bufBytes := by
  simp [issueCheck, needsI2c, needsSpi, isInit, readsLength, usesBuffer, bufferFits]
  repeat' split
  all_goals simp_all

theorem issueCheck_i2cRead (s : State) :
    issueCheck .i2cRead s = none ↔ owns .i2c s = true ∧ s.i2c.stopping = false ∧ s.reg.len ≠ 0 ∧ s.reg.buf.toNat + s.reg.len.toNat ≤ s.par.bufBytes := by
  simp [issueCheck, needsI2c, needsSpi, isInit, readsLength, usesBuffer, bufferFits]
  repeat' split
  all_goals simp_all

theorem issueCheck_spiInit (s : State) :
    issueCheck .spiInit s = none ↔ s.i2c.stopping = false ∧ spiBusy s = false := by
  simp [issueCheck, needsI2c, needsSpi, isInit, readsLength, usesBuffer, bufferFits]

theorem issueCheck_spiWrite (s : State) :
    issueCheck .spiWrite s = none ↔ owns .spi s = true ∧ s.reg.buf.toNat + s.reg.len.toNat ≤ s.par.bufBytes := by
  simp [issueCheck, needsI2c, needsSpi, isInit, readsLength, usesBuffer, bufferFits]
  repeat' split
  all_goals simp_all

theorem issueCheck_spiRead (s : State) :
    issueCheck .spiRead s = none ↔ owns .spi s = true ∧ s.reg.len ≠ 0 ∧ s.reg.buf.toNat + s.reg.len.toNat ≤ s.par.bufBytes := by
  simp [issueCheck, needsI2c, needsSpi, isInit, readsLength, usesBuffer, bufferFits]
  repeat' split
  all_goals simp_all

theorem issueCheck_spiBusy (s : State) : issueCheck .spiBusy s = none := by
  simp [issueCheck, needsI2c, needsSpi, isInit, readsLength, usesBuffer, bufferFits]

theorem issueCheck_spiCsLow (s : State) :
    issueCheck .spiCsLow s = none ↔ owns .spi s = true := by
  simp [issueCheck, needsI2c, needsSpi, isInit, readsLength, usesBuffer, bufferFits]

theorem issueCheck_spiCsHigh (s : State) :
    issueCheck .spiCsHigh s = none ↔ owns .spi s = true := by
  simp [issueCheck, needsI2c, needsSpi, isInit, readsLength, usesBuffer, bufferFits]

theorem issueCheck_flashInit (s : State) :
    issueCheck .flashInit s = none ↔ s.i2c.stopping = false ∧ spiBusy s = false := by
  simp [issueCheck, needsI2c, needsSpi, isInit, readsLength, usesBuffer, bufferFits]

theorem issueCheck_flashReadId (s : State) :
    issueCheck .flashReadId s = none ↔ owns .spi s = true ∧ s.reg.buf.toNat + 3 ≤ s.par.bufBytes := by
  simp [issueCheck, needsI2c, needsSpi, isInit, readsLength, usesBuffer, bufferFits]
  repeat' split
  all_goals simp_all

theorem issueCheck_flashRead (s : State) :
    issueCheck .flashRead s = none ↔ owns .spi s = true ∧ s.reg.len ≠ 0 ∧ s.reg.buf.toNat + s.reg.len.toNat ≤ s.par.bufBytes := by
  simp [issueCheck, needsI2c, needsSpi, isInit, readsLength, usesBuffer, bufferFits]
  repeat' split
  all_goals simp_all

theorem issueCheck_flashWrite (s : State) :
    issueCheck .flashWrite s = none ↔ owns .spi s = true ∧ s.reg.buf.toNat + s.reg.len.toNat ≤ s.par.bufBytes := by
  simp [issueCheck, needsI2c, needsSpi, isInit, readsLength, usesBuffer, bufferFits]
  repeat' split
  all_goals simp_all

theorem issueCheck_flashBusy (s : State) :
    issueCheck .flashBusy s = none ↔ owns .spi s = true := by
  simp [issueCheck, needsI2c, needsSpi, isInit, readsLength, usesBuffer, bufferFits]


/-! ## One step (00_scope.md R10) -/

/-- A step is the first listed move, or the next of the stream of moves. -/
theorem step_eq (s : State) :
    ∃ m ms n, step s = performMove m { s with moves := ms, draws := n } ∧
      ((∃ r, s.moves = m :: r ∧ ms = r ∧ n = s.draws) ∨
       (s.moves = [] ∧ m = Config.anyMove s.draws ∧ ms = s.moves ∧ n = s.draws + 1)) := by
  unfold step nextStep
  split
  · rename_i m r hm
    exact ⟨m, r, s.draws, rfl, .inl ⟨r, hm, rfl, rfl⟩⟩
  · rename_i hm
    exact ⟨_, s.moves, s.draws + 1, rfl, .inr ⟨hm, rfl, rfl, rfl⟩⟩

/-- A move either is not enabled and changes nothing, or does what it does. -/
theorem performMove_cases {m : Move} {s t : State} (h : performMove m s = .next t) :
    (moveEnabled m s = false ∧ t = s) ∨ (moveEnabled m s = true ∧ runMove m s = .next t) := by
  unfold performMove at h
  split at h
  · exact .inr ⟨by assumption, h⟩
  · rename_i he
    exact .inl ⟨by simpa using he, by simpa using h.symm⟩

end Sys2Proof.Machine
end

