-- ==== Sys2Proof/Laws/PerInstr.lean ====
section
/-!
SUPPORT. What holds of every instruction as syntax, one lemma per constructor: its code has the fixed bits of its row of
spec/opcode_table.json.
-/

namespace Sys2Proof.Laws

/-- The bits of a code that spec/opcode_table.json numbers: a command word, or the command byte of a frame. -/
def codeBits (c : Code) : Word :=
  match c with
  | .cmd32 w => w
  | .spiFrame [] => 0
  | .spiFrame (b :: _) => b.setWidth 32

/-- The mask and the match of an instruction's row of spec/opcode_table.json. -/
def tableRow (i : Instr) : Word × Word :=
  match i with
  | .bindTx => (0xFFFFFFFF, 0x00000001)
  | .bindRx => (0xFFFFFFFF, 0x00000002)
  | .i2cInit => (0xFFFFFFFF, 0x00000010)
  | .i2cWrite _ => (0xFFFFFEFF, 0x00000011)
  | .i2cRead => (0xFFFFFFFF, 0x00000012)
  | .spiInit => (0xFFFFFFFF, 0x00000020)
  | .spiWrite => (0xFFFFFFFF, 0x00000021)
  | .spiRead => (0xFFFFFFFF, 0x00000022)
  | .spiBusy => (0xFFFFFFFF, 0x00000023)
  | .spiCsLow => (0xFFFFFFFF, 0x00000024)
  | .spiCsHigh => (0xFFFFFFFF, 0x00000025)
  | .flashInit => (0xFFFFFFFF, 0x00000030)
  | .flashReadId => (0xFFFFFFFF, 0x00000031)
  | .flashRead => (0xFFFFFFFF, 0x00000032)
  | .flashWrite => (0xFFFFFFFF, 0x00000033)
  | .flashBusy => (0xFFFFFFFF, 0x00000034)
  | .frameReadId _ => (0xFF, 0x9F)
  | .frameRead _ => (0xFF, 0x03)
  | .frameWriteEnable _ => (0xFF, 0x06)
  | .frameSectorErase _ => (0xFF, 0xD8)
  | .framePageProgram _ => (0xFF, 0x02)
  | .frameReadStatus _ => (0xFF, 0x05)

/-- The code of an instruction has its row's fixed bits. -/
def TableRow.Statement (i : Instr) : Prop := codeBits (encode i) &&& (tableRow i).1 = (tableRow i).2

theorem TableRow.bindTx : TableRow.Statement .bindTx := rfl
theorem TableRow.bindRx : TableRow.Statement .bindRx := rfl
theorem TableRow.i2cInit : TableRow.Statement .i2cInit := rfl
theorem TableRow.i2cWrite (stop : Bool) : TableRow.Statement (.i2cWrite stop) := by cases stop <;> rfl
theorem TableRow.i2cRead : TableRow.Statement .i2cRead := rfl
theorem TableRow.spiInit : TableRow.Statement .spiInit := rfl
theorem TableRow.spiWrite : TableRow.Statement .spiWrite := rfl
theorem TableRow.spiRead : TableRow.Statement .spiRead := rfl
theorem TableRow.spiBusy : TableRow.Statement .spiBusy := rfl
theorem TableRow.spiCsLow : TableRow.Statement .spiCsLow := rfl
theorem TableRow.spiCsHigh : TableRow.Statement .spiCsHigh := rfl
theorem TableRow.flashInit : TableRow.Statement .flashInit := rfl
theorem TableRow.flashReadId : TableRow.Statement .flashReadId := rfl
theorem TableRow.flashRead : TableRow.Statement .flashRead := rfl
theorem TableRow.flashWrite : TableRow.Statement .flashWrite := rfl
theorem TableRow.flashBusy : TableRow.Statement .flashBusy := rfl
theorem TableRow.frameReadId (tail : List Byte) : TableRow.Statement (.frameReadId tail) :=
  show BitVec.setWidth 32 FrameCmd.readId.code &&& (0xFF : Word) = BitVec.setWidth 32 FrameCmd.readId.code by decide
theorem TableRow.frameRead (tail : List Byte) : TableRow.Statement (.frameRead tail) :=
  show BitVec.setWidth 32 FrameCmd.read.code &&& (0xFF : Word) = BitVec.setWidth 32 FrameCmd.read.code by decide
theorem TableRow.frameWriteEnable (tail : List Byte) : TableRow.Statement (.frameWriteEnable tail) :=
  show BitVec.setWidth 32 FrameCmd.writeEnable.code &&& (0xFF : Word) = BitVec.setWidth 32 FrameCmd.writeEnable.code by decide
theorem TableRow.frameSectorErase (tail : List Byte) : TableRow.Statement (.frameSectorErase tail) :=
  show BitVec.setWidth 32 FrameCmd.sectorErase.code &&& (0xFF : Word) = BitVec.setWidth 32 FrameCmd.sectorErase.code by decide
theorem TableRow.framePageProgram (tail : List Byte) : TableRow.Statement (.framePageProgram tail) :=
  show BitVec.setWidth 32 FrameCmd.pageProgram.code &&& (0xFF : Word) = BitVec.setWidth 32 FrameCmd.pageProgram.code by decide
theorem TableRow.frameReadStatus (tail : List Byte) : TableRow.Statement (.frameReadStatus tail) :=
  show BitVec.setWidth 32 FrameCmd.readStatus.code &&& (0xFF : Word) = BitVec.setWidth 32 FrameCmd.readStatus.code by decide

end Sys2Proof.Laws
end

