-- ==== Sys2Proof/Tests/Slice0.lean ====
section
/-!
SUPPORT. The model's own tests: the smoke of WellFormed, every constructor's decoding from a word written out from
30_encoding.md, single steps from the vectors of 95_test_vectors.md (named in each docstring), and, for every obligation with
hypotheses, a state and operands that meet them together (`witness_…`).
-/

open Sys2Proof Sys2Proof.Machine

namespace Sys2Proof.Tests

/-! ## Helpers -/

/-- The state after one move, where there is one. -/
def after (s : State) (m : Move) : Option State :=
  match step (s.queued m) with
  | .next t => some t
  | .fault _ => none
  | .refused _ => none

/-- STATUS after one move. -/
def statusAfter (s : State) (m : Move) : Option Word := (after s m).map statusWord

/-- The state an instruction leaves, where there is one. -/
def execNext (i : Instr) (s : State) : Option State :=
  match exec i s with
  | .next t => some t
  | .fault _ => none
  | .refused _ => none

/-- The operand registers set. -/
def withRegs (s : State) (b n : Half) (a : FlashAddr) : State := { s with reg := { buf := b, len := n, addr := a } }

/-- A 32-bit host write. -/
def wr (off : Nat) (v : Word) : Move := .host { dir := .write, bits := 32, off := off, data := v }
/-- A 32-bit host read. -/
def rd (off : Nat) : Move := .host { dir := .read, bits := 32, off := off, data := 0 }
/-- An 8-bit host write of the buffer window. -/
def wrByte (i : Nat) (v : Word) : Move := .host { dir := .write, bits := 8, off := 0x100 + i, data := v }
/-- An 8-bit host read of the buffer window. -/
def rdByte (i : Nat) : Move := .host { dir := .read, bits := 8, off := 0x100 + i, data := 0 }

/-- After `I2C_INIT 0x48` from reset. -/
def i2cReady : State :=
  { State.reset with
    arb := { mode := .i2c, tx := some .i2c, rx := some .i2c }
    i2c := { I2cState.reset with sa := 0x48 } }

/-- After `SPI_INIT` or `FLASH_INIT` from reset. -/
def spiReady : State := { State.reset with arb := { mode := .spi, tx := some .spi, rx := some .spi } }

/-- A write of two bytes from index 254 whose address has been acknowledged. -/
def i2cSending : State :=
  { withRegs i2cReady 254 2 0 with
    op := { opc := some .i2cWrite, buf := 254, len := 2, addr := 0, stop := true }
    i2c := { I2cState.reset with
      sa := 0x48, rem := 2, cur := 254, sendStop := true, txie := true, nackie := true, phase := .transmitting
      txifg := true, held := true }
    bufmem := [(254, 0x11), (255, 0x22)] }

/-- A read into index 5 whose first of two bytes has arrived. -/
def i2cTaking : State :=
  { withRegs i2cReady 5 2 0 with
    op := { opc := some .i2cRead, buf := 5, len := 2, addr := 0, stop := false }
    i2c := { I2cState.reset with
      sa := 0x48, dir := .rx, rem := 2, cur := 5, rxie := true, phase := .receiving, rxifg := true, rxbuf := 0xAB
      held := true }
    bufmem := [(5, 0x99)] }

/-- A SPI write of two bytes from index 254, at its first handler run. -/
def spiSending : State :=
  { withRegs spiReady 254 2 0 with
    op := { opc := some .spiWrite, buf := 254, len := 2, addr := 0, stop := false }
    spi := { SpiState.reset with rem := 2, cur := 254, phase := .transferring, txie := true }
    bufmem := [(254, 0xA1), (255, 0xB2)] }

/-- A SPI read of one byte into index 255 that has arrived. -/
def spiTaking : State :=
  { withRegs spiReady 255 1 0 with
    op := { opc := some .spiRead, buf := 255, len := 1, addr := 0, stop := false }
    spi := { SpiState.reset with
      dir := .rx, rem := 1, cur := 255, phase := .transferring, rxie := true, rxbuf := 0x5A, rxFull := true }
    bufmem := [(255, 0x99)] }

/-- No operation live, one byte of the buffer memory written. -/
def idleWritten : State := { State.reset with bufmem := [(0, 0x99)] }

/-- A FLASH_READ at one of its actions, no transfer started. -/
def flashAt (pc : Nat) : State :=
  { spiReady with
    op := { opc := some .flashRead, buf := 0, len := 4, addr := 0x123456, stop := false }
    fl := { FlashSeq.reset with prog := readProgram 0 4, pc := pc } }

/-- The flash chip selected with a frame open. -/
def selected (frame : List Byte) : State :=
  { spiReady with cs := false, dev := { FlashChip.initial with frame := frame } }

/-! ## WellFormed refuses an ill-formed term for each of its checks -/

theorem test_wellformed_refuses_read_id_dummy : (Instr.frameReadId [0, 0, 1, 0]).wellFormed = false := by decide
theorem test_wellformed_refuses_read_id_length : (Instr.frameReadId [0, 0]).wellFormed = false := by decide
theorem test_wellformed_refuses_read_dummy : (Instr.frameRead [0x12, 0x34, 0x56, 0, 7]).wellFormed = false := by decide
theorem test_wellformed_refuses_read_length : (Instr.frameRead [0x12, 0x34, 0x56]).wellFormed = false := by decide
theorem test_wellformed_refuses_write_enable : (Instr.frameWriteEnable [0]).wellFormed = false := by decide
theorem test_wellformed_refuses_sector_erase : (Instr.frameSectorErase [0x12, 0x34]).wellFormed = false := by decide
theorem test_wellformed_refuses_page_program : (Instr.framePageProgram [0x12, 0x34]).wellFormed = false := by decide
theorem test_wellformed_refuses_status_dummy : (Instr.frameReadStatus [0, 1]).wellFormed = false := by decide
theorem test_wellformed_refuses_status_length : (Instr.frameReadStatus []).wellFormed = false := by decide
theorem test_wellformed_accepts_frames_of_R66 :
    (Instr.frameReadId [0, 0, 0, 0]).wellFormed ∧ (Instr.frameRead [0x12, 0x34, 0x56, 0, 0]).wellFormed ∧
    (Instr.frameWriteEnable []).wellFormed ∧ (Instr.frameSectorErase [0, 0x12, 0x34]).wellFormed ∧
    (Instr.framePageProgram [0, 0x12, 0x34, 0x5A]).wellFormed ∧ (Instr.frameReadStatus [0, 0]).wellFormed := by decide

/-! ## Decode: every constructor from a word written out bit by bit (R60, R63, R66) -/

theorem test_decode_arbiter :
    decode (.cmd32 0b00000000000000000000000000000001) = .ok .bindTx ∧
    decode (.cmd32 0b00000000000000000000000000000010) = .ok .bindRx := ⟨rfl, rfl⟩
theorem test_decode_i2c :
    decode (.cmd32 0b00000000000000000000000000010000) = .ok .i2cInit ∧
    decode (.cmd32 0b00000000000000000000000000010001) = .ok (.i2cWrite false) ∧
    decode (.cmd32 0b00000000000000000000000100010001) = .ok (.i2cWrite true) ∧
    decode (.cmd32 0b00000000000000000000000000010010) = .ok .i2cRead := ⟨rfl, rfl, rfl, rfl⟩
theorem test_decode_spi :
    decode (.cmd32 0b00000000000000000000000000100000) = .ok .spiInit ∧
    decode (.cmd32 0b00000000000000000000000000100001) = .ok .spiWrite ∧
    decode (.cmd32 0b00000000000000000000000000100010) = .ok .spiRead ∧
    decode (.cmd32 0b00000000000000000000000000100011) = .ok .spiBusy ∧
    decode (.cmd32 0b00000000000000000000000000100100) = .ok .spiCsLow ∧
    decode (.cmd32 0b00000000000000000000000000100101) = .ok .spiCsHigh := ⟨rfl, rfl, rfl, rfl, rfl, rfl⟩
theorem test_decode_flash :
    decode (.cmd32 0b00000000000000000000000000110000) = .ok .flashInit ∧
    decode (.cmd32 0b00000000000000000000000000110001) = .ok .flashReadId ∧
    decode (.cmd32 0b00000000000000000000000000110010) = .ok .flashRead ∧
    decode (.cmd32 0b00000000000000000000000000110011) = .ok .flashWrite ∧
    decode (.cmd32 0b00000000000000000000000000110100) = .ok .flashBusy := ⟨rfl, rfl, rfl, rfl, rfl⟩
/-- The frames of 95_test_vectors.md FL-ID, ENC-6, FL-W1 and FL-B1. -/
theorem test_decode_frames :
    decode (.spiFrame [0x9F, 0, 0, 0, 0]) = .ok (.frameReadId [0, 0, 0, 0]) ∧
    decode (.spiFrame [0x03, 0x12, 0x34, 0x56, 0, 0, 0]) = .ok (.frameRead [0x12, 0x34, 0x56, 0, 0, 0]) ∧
    decode (.spiFrame [0x06]) = .ok (.frameWriteEnable []) ∧
    decode (.spiFrame [0xD8, 0x00, 0x12, 0x34]) = .ok (.frameSectorErase [0x00, 0x12, 0x34]) ∧
    decode (.spiFrame [0x02, 0x00, 0x12, 0x34, 0x5A, 0xA5]) = .ok (.framePageProgram [0x00, 0x12, 0x34, 0x5A, 0xA5]) ∧
    decode (.spiFrame [0x05, 0, 0]) = .ok (.frameReadStatus [0, 0]) := ⟨rfl, rfl, rfl, rfl, rfl, rfl⟩
/-- 30_encoding.md R65 and vectors ENC-2 to ENC-5; an empty frame and a byte that is none of the six of R66. -/
theorem test_decode_refuses_by_name :
    decode (.cmd32 0x00000112) = .error (.stopNotAllowed 0x12) ∧
    decode (.cmd32 0x00000000) = .error (.unknownOpcode 0x00) ∧
    decode (.cmd32 0x00000210) = .error (.reservedBits 1) ∧
    decode (.cmd32 0x80000010) = .error (.reservedBits 0x400000) ∧
    decode (.cmd32 0x00000013) = .error (.unknownOpcode 0x13) ∧
    decode (.spiFrame []) = .error .emptyFrame ∧
    decode (.spiFrame [0x07]) = .error (.unknownFrameCommand 0x07) := ⟨rfl, rfl, rfl, rfl, rfl, rfl, rfl⟩
/-- Two rows as spec/opcode_table.json numbers their bits: I2C_WRITE's word, FRAME_SECTOR_ERASE's byte. -/
theorem test_decode_table_words :
    decodeTableWord 32 0x11 = some (.i2cWrite false) ∧
    decodeTableWord 8 0xD8 = some (.frameSectorErase [0, 0, 0]) ∧ decodeTableWord 32 0x13 = none := ⟨rfl, rfl, rfl⟩
/-- A command placed for the first step after reset, and a frame: each is run by that step. -/
theorem test_placed_words_run :
    step (State.reset.withFetchWord 32 0x23) = exec .spiBusy State.reset ∧
    step (State.reset.withFetchWord 8 0x06) =
      exec (.frameWriteEnable []) { State.reset with
        op := { State.reset.op with opc := none }, cs := true, dev := { FlashChip.initial with frame := [0x06] } } :=
  ⟨rfl, rfl⟩

/-! ## The host (95_test_vectors.md 2.1, 2.2) -/

/-- ARB-1, ENC-2 to ENC-5. -/
theorem test_illegal_words :
    statusWord State.reset = 0x00000080 ∧ statusAfter State.reset (wr 0 0x00000112) = some 0x00110080 ∧
    statusAfter State.reset (wr 0 0x00000000) = some 0x00110080 ∧
    statusAfter State.reset (wr 0 0x00000210) = some 0x00110080 ∧
    statusAfter State.reset (wr 0 0x00000013) = some 0x00110080 := by decide
/-- ENC-7 to ENC-10: the stored bits, and the word a read returns. -/
theorem test_registers :
    (after State.reset (wr 0x00C 0xFF123456)).map (·.reg.addr) = some 0x123456 ∧
    (after (withRegs State.reset 0 0 0x123456) (rd 0x00C)).map (·.rdata) = some (some 0x00123456) ∧
    (after State.reset (wr 0x004 0x12340010)).map (·.reg.buf) = some 0x0010 ∧
    (after State.reset (rd 0x000)).map (·.rdata) = some (some 0) ∧
    statusAfter State.reset (wr 0x010 0xFFFFFFFF) = some 0x00000080 := by decide
/-- HA-1 to HA-4. -/
theorem test_host_access_faults :
    statusAfter State.reset (.host { dir := .read, bits := 8, off := 0x010, data := 0 }) = some 0x00810080 ∧
    statusAfter State.reset (wr 0x018 0) = some 0x00810080 ∧
    (after State.reset (rd 0x006)).map (fun t => (statusWord t, t.rdata)) = some (0x00810080, some 0) ∧
    statusAfter State.reset (rd 0x100) = some 0x00810080 := by decide
/-- HA-5, HA-6. -/
theorem test_window :
    (after State.reset (wrByte 7 0x3C)).map (·.bufmem) = some [(7, 0x3C)] ∧
    (after { State.reset with bufmem := [(7, 0x3C)] } (rdByte 7)).map (·.rdata) = some (some 0x3C) ∧
    statusWord i2cTaking = 0x00001581 ∧
    (after i2cTaking (rdByte 0)).map (fun t => (statusWord t, t.rdata)) = some (0x00811581, some 0) := by decide

/-! ## The commands (95_test_vectors.md 2.3 to 2.6), one step each -/

/-- ARB-2, ARB-4, ARB-5. -/
theorem test_bind_tx :
    statusAfter (withRegs State.reset 0 0 2) (wr 0 0x01) = some 0x00000280 ∧
    statusAfter (withRegs State.reset 0 0 3) (wr 0 0x01) = some 0x00110080 ∧
    statusAfter (withRegs State.reset 0 0 6) (wr 0 0x01) = some 0x00000280 := by decide
/-- 40_arbiter.md R75, example. -/
theorem test_bind_rx : statusAfter (withRegs State.reset 0 0 1) (wr 0 0x02) = some 0x00000480 := by decide
/-- ARB-6; I2C-BA. -/
theorem test_i2c_init :
    (after (withRegs State.reset 0 0 0xC8) (wr 0 0x10)).map (fun t => (statusWord t, slaveWord t)) = some (0x580, 0x48) ∧
    statusAfter { i2cReady with i2c := { i2cReady.i2c with stopping := true, held := true } } (wr 0 0x10) =
      some 0x007115A0 := by decide
/-- ENC-1; I2C-RG. -/
theorem test_i2c_write :
    (after (withRegs i2cReady 0 1 0) (wr 0 0x111)).map (·.op) =
      some { opc := some .i2cWrite, buf := 0, len := 1, addr := 0, stop := true } ∧
    statusAfter (withRegs i2cReady 254 2 0) (wr 0 0x11) = some 0x00001581 ∧
    statusAfter (withRegs i2cReady 255 2 0) (wr 0 0x11) = some 0x00510580 := by decide
/-- I2C-R1, I2C-L0, I2C-SP, FZ-5. -/
theorem test_i2c_read :
    statusAfter (withRegs i2cReady 0 1 0) (wr 0 0x12) = some 0x000015A1 ∧
    statusAfter (withRegs i2cReady 0 0 0) (wr 0 0x12) = some 0x00410580 ∧
    statusAfter { withRegs i2cReady 0 1 0 with i2c := { i2cReady.i2c with stopping := true, held := true } } (wr 0 0x12) =
      some 0x006115A0 ∧
    statusAfter (withRegs State.reset 0 0 0) (wr 0 0x12) = some 0x00310080 := by decide
/-- 42_spi.md R103, example; SPI-BA. -/
theorem test_spi_init :
    statusAfter State.reset (wr 0 0x20) = some 0x00000AC0 ∧
    statusAfter { spiReady with spi := { SpiState.reset with shifting := true } } (wr 0 0x20) = some 0x00710AD0 := by
  decide
/-- SPI-W1 (issue), SPI-MM, ARB-9. -/
theorem test_spi_write :
    (after (withRegs spiReady 0 1 0) (wr 0 0x21)).map (fun t => (t.spi.phase, t.spi.rem, t.spi.mem)) =
      some (.waitIdle, 1, .buf) ∧
    statusAfter (withRegs i2cReady 0 1 0) (wr 0 0x21) = some 0x00310580 ∧
    statusAfter (withRegs State.reset 0 1 0) (wr 0 0x21) = some 0x00310080 := by decide
/-- SPI-L0; 60_exceptions.md R138. -/
theorem test_spi_read :
    statusAfter spiReady (wr 0 0x22) = some 0x00410AC0 ∧
    (after (withRegs spiReady 255 1 0) (wr 0 0x22)).map (·.spi.dir) = some .rx := by decide
/-- ARB-10, SPI-B1. -/
theorem test_spi_busy :
    statusAfter State.reset (wr 0 0x23) = some 0x00000080 ∧
    statusAfter { spiReady with spi := { SpiState.reset with shifting := true } } (wr 0 0x23) = some 0x00000AD4 := by
  decide
/-- SPI-CS. -/
theorem test_spi_cs_low : statusAfter spiReady (wr 0 0x24) = some 0x00000A40 := by decide
/-- SPI-CS: the issue leaves the operation live, the completion raises chip select. -/
theorem test_spi_cs_high :
    statusAfter { spiReady with cs := false } (wr 0 0x25) = some 0x00000A41 ∧
    statusAfter { spiReady with cs := false, op := { State.reset.op with opc := some .spiCsHigh } }
      (.seq .csHighFinish) = some 0x00000AC0 := by decide
/-- 43_flash.md R124, example; `fl.hdr` is kept. -/
theorem test_flash_init :
    statusAfter State.reset (wr 0 0x30) = some 0x00000AC0 ∧
    (after { State.reset with fl := { FlashSeq.reset with hdr := { b0 := 1, b1 := 2, b2 := 3, b3 := 4 } } }
      (wr 0 0x30)).map (·.fl.hdr.b3) = some 4 := by decide
/-- FL-RG. -/
theorem test_flash_read_id :
    statusAfter (withRegs spiReady 254 0 0) (wr 0 0x31) = some 0x00510AC0 ∧
    (after (withRegs spiReady 253 0 0) (wr 0 0x31)).map (·.fl.prog) = some [.csl, .txc 0x9F 1, .rxb 253 3, .csh] := by
  decide
/-- ENC-6, FL-L0. -/
theorem test_flash_read :
    (after (withRegs spiReady 0 2 0x123456) (wr 0 0x32)).map (·.fl.hdr) =
      some { b0 := 0x00, b1 := 0x12, b2 := 0x34, b3 := 0x56 } ∧
    statusAfter (withRegs spiReady 0 0 0) (wr 0 0x32) = some 0x00410AC0 := by decide
/-- 43_flash.md R117: the write has 14 actions; FL-W0: a length of 0 is allowed. -/
theorem test_flash_write :
    (after (withRegs spiReady 0 0 0x020000) (wr 0 0x33)).map (fun t => (t.fl.prog.length, t.fl.prog[12]?)) =
      some (14, some (.txb 0 0)) := by decide
/-- FL-BC; the last action but one reads the status byte. -/
theorem test_flash_busy :
    statusAfter { spiReady with op := { State.reset.op with opc := some .flashWrite } } (wr 0 0x34) = some 0x00210AC1 ∧
    (after spiReady (wr 0 0x34)).map (·.fl.prog[2]?) = some (some .rxs) := by decide

/-! ## Handlers, events, frames (95_test_vectors.md 2.4 to 2.7) -/

/-- I2C-W1 and I2C-R3: the handlers. -/
theorem test_i2c_handlers :
    (after i2cSending (.isr .i2cTx)).map (fun t => (t.i2c.txdata, t.i2c.cur, t.i2c.rem, t.i2c.txifg)) =
      some (0x11, 255, 1, false) ∧
    (after i2cTaking (.isr .i2cRx)).map (fun t => (t.bufmem, t.i2c.rem, t.i2c.cur, t.i2c.stopping)) =
      some ([(5, 0xAB)], 1, 6, true) := by decide
/-- I2C-R1: a byte after the stop is the last; a stop cannot complete before it. -/
theorem test_i2c_read_events :
    (after { i2cTaking with i2c := { i2cTaking.i2c with rxifg := false, stopping := true } }
      (.env (.i2cRxByte 0x5A))).map (·.i2c.finalRx) = some true ∧
    (after { i2cTaking with i2c := { i2cTaking.i2c with stopping := true } } (.env .i2cStopDone)).map (·.i2c.stopping) =
      some true := by decide
/-- SPI-W2, SPI-R1: the handlers. -/
theorem test_spi_handlers :
    (after spiSending (.isr .spiTx)).map (fun t => (t.spi.txbuf, t.spi.txFull, t.spi.cur)) = some (0xA1, true, 255) ∧
    (after spiTaking (.isr .spiRx)).map (fun t => (t.bufmem, t.spi.txFull, t.spi.done, t.spi.rxie)) =
      some ([(255, 0x5A)], true, true, false) := by decide
/-- 20_memory.md R53: the byte after 0x9F is the first of FLASH_ID. -/
theorem test_frame_read_id :
    (execNext (.frameReadId []) (selected [0x9F])).map (·.spi.rxbuf) = some (Config.flashId 0) := rfl
/-- FL-R1: position 5 of a page read is the first byte of `M`. -/
theorem test_frame_read :
    (execNext (.frameRead [0x12, 0x34, 0x56, 0])
      { selected [0x03, 0x12, 0x34, 0x56, 0] with
        dev := { FlashChip.initial with cells := [(0x123456, 0xAA)] } }).map (·.spi.rxbuf) = some 0xAA := by decide
/-- SPI-CH and RS-2: a rise on `[0x06]` sets `wel`, by SPI_CS_HIGH or by reset. -/
theorem test_frame_write_enable :
    (after { selected [0x06] with op := { State.reset.op with opc := some .spiCsHigh } } (.seq .csHighFinish)).map
      (·.dev.wel) = some true ∧
    (after (selected [0x06]) .reset).map (fun t => (t.dev.wel, statusWord t)) = some (true, 0x00000080) := by decide
/-- FL-W1: the sector of 0x001234 reads 0xFF, and the latches move; P6: the byte after it is kept. -/
theorem test_frame_sector_erase :
    (execNext (.frameSectorErase [0x00, 0x12, 0x34])
      { spiReady with dev := { FlashChip.initial with wel := true, cells := [(0, 0xA5), (0x10000, 0xA5)] } }).map
      (fun t => (flashByte t.dev 0, flashByte t.dev 0xFFFF, flashByte t.dev 0x10000, t.dev.wel, t.dev.wip)) =
      some (0xFF, 0xFF, 0xA5, false, true) := by decide
/-- FL-PW: a program at 0x0000FF wraps within its page, and only clears bits. -/
theorem test_frame_page_program :
    (execNext (.framePageProgram [0x00, 0x00, 0xFF, 0x01, 0x0F])
      { spiReady with dev := { FlashChip.initial with wel := true, cells := [(0, 0xF2)], erased := [0] } }).map
      (fun t => (flashByte t.dev 0xFF, flashByte t.dev 0, flashByte t.dev 1, t.dev.wip)) =
      some (0x01, 0x02, 0xFF, true) := by decide
/-- FL-B1: a busy chip answers the status byte with WIP set. -/
theorem test_frame_read_status :
    (execNext (.frameReadStatus [])
      { selected [0x05] with dev := { FlashChip.initial with wip := true, frame := [0x05] } }).map
      (fun t => t.spi.rxbuf.getLsbD 0) = some true := by decide
/-- FZ-1, FZ-2: a frozen engine ignores a command and keeps its first fault code. -/
theorem test_frozen :
    statusAfter { withRegs State.reset 0 0 0x48 with fault := true, fcode := 3 } (wr 0 0x10) = some 0x00310080 ∧
    statusAfter { State.reset with fault := true, fcode := 3 }
      (.host { dir := .read, bits := 8, off := 0x010, data := 0 }) = some 0x00310080 := by decide

/-! ## Sound states that are not the reset state -/

theorem default_params_ok : ParamsOk Params.default := by unfold ParamsOk; decide

theorem i2cSending_sound : Sound i2cSending := by
  refine ⟨default_params_ok, ⟨by decide, by decide, reset_memory_wf.2⟩, ?_, ?_, ?_, ?_⟩
  all_goals constructor <;> simp [i2cSending, withRegs, i2cReady, State.reset, I2cState.reset, SpiState.reset,
    FlashSeq.reset, i2cOpLive, spiOpLive, flashOpLive, isFlashOp, owns, Params.default]

theorem i2cTaking_sound : Sound i2cTaking := by
  refine ⟨default_params_ok, ⟨by decide, by decide, reset_memory_wf.2⟩, ?_, ?_, ?_, ?_⟩
  all_goals constructor <;> simp [i2cTaking, withRegs, i2cReady, State.reset, I2cState.reset, SpiState.reset,
    FlashSeq.reset, i2cOpLive, spiOpLive, flashOpLive, isFlashOp, owns, Params.default]

theorem spiSending_sound : Sound spiSending := by
  refine ⟨default_params_ok, ⟨by decide, by decide, reset_memory_wf.2⟩, ?_, ?_, ?_, ?_⟩
  all_goals constructor <;> simp [spiSending, withRegs, spiReady, State.reset, I2cState.reset, SpiState.reset,
    FlashSeq.reset, i2cOpLive, spiOpLive, flashOpLive, isFlashOp, owns, Params.default, spiMemSize]

theorem spiTaking_sound : Sound spiTaking := by
  refine ⟨default_params_ok, ⟨by decide, by decide, reset_memory_wf.2⟩, ?_, ?_, ?_, ?_⟩
  all_goals constructor <;> simp [spiTaking, withRegs, spiReady, State.reset, I2cState.reset, SpiState.reset,
    FlashSeq.reset, i2cOpLive, spiOpLive, flashOpLive, isFlashOp, owns, Params.default, spiMemSize]

theorem i2cReady_sound (b n : Half) (a : FlashAddr) : Sound (withRegs i2cReady b n a) := by
  refine ⟨default_params_ok, ⟨by simp [withRegs, i2cReady, State.reset], by simp [withRegs, i2cReady, State.reset],
    reset_memory_wf.2⟩, ?_, ?_, ?_, ?_⟩
  all_goals constructor <;> simp [withRegs, i2cReady, State.reset, I2cState.reset, SpiState.reset,
    FlashSeq.reset, i2cOpLive, spiOpLive, flashOpLive, isFlashOp, owns, Params.default]

theorem spiReady_sound (b n : Half) (a : FlashAddr) : Sound (withRegs spiReady b n a) := by
  refine ⟨default_params_ok, ⟨by simp [withRegs, spiReady, State.reset], by simp [withRegs, spiReady, State.reset],
    reset_memory_wf.2⟩, ?_, ?_, ?_, ?_⟩
  all_goals constructor <;> simp [withRegs, spiReady, State.reset, I2cState.reset, SpiState.reset,
    FlashSeq.reset, i2cOpLive, spiOpLive, flashOpLive, isFlashOp, owns, Params.default]

theorem idleWritten_sound : Sound idleWritten := by
  refine ⟨default_params_ok, ⟨by decide, by decide, reset_memory_wf.2⟩, ?_, ?_, ?_, ?_⟩
  all_goals constructor <;> simp [idleWritten, State.reset, I2cState.reset, SpiState.reset,
    FlashSeq.reset, i2cOpLive, spiOpLive, flashOpLive, isFlashOp, owns, Params.default]

/-! ## A state and operands for the hypotheses of every obligation, clause by clause -/

/-- A legal word with STOP; three illegal words. -/
theorem witness_CommandWordsExecuteOrFault :
    let legal := fun w : Word =>
      w.extractLsb' 0 8 ∈ [0x01#8, 0x02, 0x10, 0x11, 0x12, 0x20, 0x21, 0x22, 0x23, 0x24, 0x25, 0x30, 0x31, 0x32, 0x33, 0x34] ∧
        w.extractLsb' 9 23 = 0 ∧ (w.getLsbD 8 = true → w.extractLsb' 0 8 = 0x11)
    State.reset.fault = false ∧ legal 0x111 ∧ legal 0x34 ∧ ¬ legal 0x112 ∧ ¬ legal 0x80000010 ∧ ¬ legal 0x00 := by
  decide

theorem witness_StepRunsTheCommandWord :
    (State.reset.queued (wr 0 0x20)).moves = wr 0 0x20 :: [] ∧ decode (.cmd32 0x20) = .ok .spiInit ∧
    State.reset.fault = false ∧ (faulted State.reset 3).fault = true := ⟨rfl, rfl, rfl, rfl⟩

theorem witness_StepRunsTheFrame :
    (decode (.spiFrame (selected [0x06]).dev.frame) = .ok (.frameWriteEnable []) ∧ (selected [0x06]).fault = false ∧
      (selected [0x06]).par.flash = .reference ∧ (selected [0x06]).cs = false) ∧
    ((placeExchange [0x06] State.reset).arb.mode = .spi ∧ (placeExchange [0x06] State.reset).spi.shifting = true ∧
      (placeExchange [0x06] State.reset).moves = .env (.spiShiftDone 0) :: []) ∧
    ((placeRise [0x06] State.reset).op.opc = some .spiCsHigh ∧ (placeRise [0x06] State.reset).spi.txFull = false ∧
      (placeRise [0x06] State.reset).spi.shifting = false ∧
      (placeRise [0x06] State.reset).moves = .seq .csHighFinish :: []) := by
  refine ⟨⟨rfl, rfl, rfl, rfl⟩, ⟨rfl, rfl, rfl⟩, rfl, rfl, rfl, rfl⟩

theorem witness_StepTakesTheNextMove :
    (State.reset.queued .reset).moves = .reset :: [] ∧ moveEnabled (.isr .i2cTx) State.reset = false ∧
    State.reset.moves = [] := ⟨rfl, rfl, rfl⟩

theorem witness_BindCommandsWriteOneSlot :
    let at_ := withRegs State.reset 0 0
    (ready (at_ 4) ∧ (at_ 4).reg.addr.extractLsb' 0 2 = 0#2) ∧ (ready (at_ 1) ∧ (at_ 1).reg.addr.extractLsb' 0 2 = 1#2) ∧
    (ready (at_ 6) ∧ (at_ 6).reg.addr.extractLsb' 0 2 = 2#2) ∧
    ready (at_ 0xFFFFFF) ∧ (at_ 0xFFFFFF).reg.addr.extractLsb' 0 2 = 3#2 :=
  ⟨⟨⟨rfl, rfl⟩, rfl⟩, ⟨⟨rfl, rfl⟩, rfl⟩, ⟨⟨rfl, rfl⟩, rfl⟩, ⟨rfl, rfl⟩, rfl⟩

theorem witness_I2cInitTakesTheBus :
    ready State.reset ∧ State.reset.i2c.stopping = false ∧ State.reset.spi.txFull = false ∧
    State.reset.spi.shifting = false := ⟨⟨rfl, rfl⟩, rfl, rfl, rfl⟩

/-- The last buffer that fits, and a length of 0. -/
theorem witness_I2cWriteIssuesTheStart :
    let s := withRegs i2cReady 254 2 0
    let u := withRegs i2cReady 256 0 0
    (ready s ∧ s.arb = { mode := .i2c, tx := some .i2c, rx := some .i2c } ∧ s.i2c.stopping = false ∧
      s.reg.buf.toNat + s.reg.len.toNat ≤ s.par.bufBytes) ∧
    ready u ∧ u.arb = { mode := .i2c, tx := some .i2c, rx := some .i2c } ∧ u.i2c.stopping = false ∧
      u.reg.buf.toNat + u.reg.len.toNat ≤ u.par.bufBytes :=
  ⟨⟨⟨rfl, rfl⟩, rfl, rfl, by decide⟩, ⟨rfl, rfl⟩, rfl, rfl, by decide⟩

/-- A length of 1, which issues the stop, and a length of 2. -/
theorem witness_I2cReadIssuesTheStart :
    let s := withRegs i2cReady 255 1 0
    let u := withRegs i2cReady 254 2 0
    (ready s ∧ s.arb = { mode := .i2c, tx := some .i2c, rx := some .i2c } ∧ s.i2c.stopping = false ∧ s.reg.len ≠ 0 ∧
      s.reg.buf.toNat + s.reg.len.toNat ≤ s.par.bufBytes) ∧
    ready u ∧ u.arb = { mode := .i2c, tx := some .i2c, rx := some .i2c } ∧ u.i2c.stopping = false ∧ u.reg.len ≠ 0 ∧
      u.reg.buf.toNat + u.reg.len.toNat ≤ u.par.bufBytes :=
  ⟨⟨⟨rfl, rfl⟩, rfl, rfl, by decide, by decide⟩, ⟨rfl, rfl⟩, rfl, rfl, by decide, by decide⟩

/-- Chip select high, and low. -/
theorem witness_SpiAndFlashInitTakeTheBus :
    ready State.reset ∧ State.reset.i2c.stopping = false ∧ State.reset.spi.txFull = false ∧
    State.reset.spi.shifting = false ∧ State.reset.cs = true ∧ ready (selected [0x06]) ∧ (selected [0x06]).cs = false :=
  ⟨⟨rfl, rfl⟩, rfl, rfl, rfl, rfl, ⟨rfl, rfl⟩, rfl⟩

theorem witness_SpiTransfersStart :
    let s := withRegs spiReady 254 2 0
    ready s ∧ s.arb = { mode := .spi, tx := some .spi, rx := some .spi } ∧
    s.reg.buf.toNat + s.reg.len.toNat ≤ s.par.bufBytes ∧ s.reg.len ≠ 0 := ⟨⟨rfl, rfl⟩, rfl, by decide, by decide⟩

theorem witness_SpiBusyLatchesTheFlag : ready State.reset ∧ ready spiReady := ⟨⟨rfl, rfl⟩, rfl, rfl⟩

theorem witness_ChipSelectCommandsIssue :
    let u : State := { spiReady with par := { Params.default with flash := .unconstrained } }
    let v : State := selected []
    (ready spiReady ∧ spiReady.arb = { mode := .spi, tx := some .spi, rx := some .spi } ∧ spiReady.cs = true ∧
      spiReady.par.flash = .reference) ∧
    (ready u ∧ u.arb = { mode := .spi, tx := some .spi, rx := some .spi } ∧ u.cs = true ∧ u.par.flash = .unconstrained) ∧
    ready v ∧ v.arb = { mode := .spi, tx := some .spi, rx := some .spi } ∧ v.cs = false :=
  ⟨⟨⟨rfl, rfl⟩, rfl, rfl, rfl⟩, ⟨⟨rfl, rfl⟩, rfl, rfl, rfl⟩, ⟨rfl, rfl⟩, rfl, rfl⟩

theorem witness_FlashCommandsLoadTheirPrograms :
    let s := withRegs spiReady 253 3 0x123456
    ready s ∧ s.arb = { mode := .spi, tx := some .spi, rx := some .spi } ∧ s.reg.buf.toNat + 3 ≤ s.par.bufBytes ∧
    s.reg.len ≠ 0 ∧ s.reg.buf.toNat + s.reg.len.toNat ≤ s.par.bufBytes :=
  ⟨⟨rfl, rfl⟩, rfl, by decide, by decide, by decide⟩

theorem witness_CommandWhileLiveFaults :
    decode (.cmd32 0x10) = .ok .i2cInit ∧ i2cSending.fault = false ∧ i2cSending.op.opc ≠ none :=
  ⟨rfl, rfl, by decide⟩

theorem witness_TransferWithoutOwnershipFaults :
    let s := State.reset
    ready s ∧ ¬ (s.arb.mode = .i2c ∧ s.arb.tx = some .i2c ∧ s.arb.rx = some .i2c) ∧
    ¬ (s.arb.mode = .spi ∧ s.arb.tx = some .spi ∧ s.arb.rx = some .spi) := ⟨⟨rfl, rfl⟩, by decide, by decide⟩

theorem witness_ReadOfLengthZeroFaults :
    (ready i2cReady ∧ i2cReady.reg.len = 0 ∧ i2cReady.arb = { mode := .i2c, tx := some .i2c, rx := some .i2c } ∧
      i2cReady.i2c.stopping = false) ∧
    ready spiReady ∧ spiReady.reg.len = 0 ∧ spiReady.arb = { mode := .spi, tx := some .spi, rx := some .spi } :=
  ⟨⟨⟨rfl, rfl⟩, rfl, rfl, rfl⟩, ⟨rfl, rfl⟩, rfl, rfl⟩

/-- One byte too many, for both engines and for the identification. -/
theorem witness_BufferOutsideMemoryFaults :
    let s := withRegs i2cReady 255 2 0
    let u := withRegs spiReady 255 2 0
    let v := withRegs spiReady 254 0 0
    (ready s ∧ s.par.bufBytes < s.reg.buf.toNat + s.reg.len.toNat ∧ s.reg.len ≠ 0 ∧
      s.arb = { mode := .i2c, tx := some .i2c, rx := some .i2c } ∧ s.i2c.stopping = false) ∧
    (ready u ∧ u.par.bufBytes < u.reg.buf.toNat + u.reg.len.toNat ∧ u.reg.len ≠ 0 ∧
      u.arb = { mode := .spi, tx := some .spi, rx := some .spi }) ∧
    ready v ∧ v.par.bufBytes < v.reg.buf.toNat + 3 ∧ v.arb = { mode := .spi, tx := some .spi, rx := some .spi } :=
  ⟨⟨⟨rfl, rfl⟩, by decide, by decide, rfl, rfl⟩, ⟨⟨rfl, rfl⟩, by decide, by decide, rfl⟩, ⟨rfl, rfl⟩, by decide, rfl⟩

theorem witness_TransferBeforeStopFaults :
    let s := { i2cReady with i2c := { i2cReady.i2c with stopping := true } }
    ready s ∧ s.arb = { mode := .i2c, tx := some .i2c, rx := some .i2c } ∧ s.i2c.stopping = true :=
  ⟨⟨rfl, rfl⟩, rfl, rfl⟩

theorem witness_InitIntoBusActivityFaults :
    let s := { spiReady with spi := { SpiState.reset with shifting := true } }
    let u := { spiReady with spi := { SpiState.reset with txFull := true } }
    let v := { i2cReady with i2c := { i2cReady.i2c with stopping := true } }
    (ready s ∧ s.spi.shifting = true) ∧ (ready u ∧ u.spi.txFull = true) ∧ ready v ∧ v.i2c.stopping = true :=
  ⟨⟨⟨rfl, rfl⟩, rfl⟩, ⟨⟨rfl, rfl⟩, rfl⟩, ⟨rfl, rfl⟩, rfl⟩

/-- Chip select low at the first, third and fourth byte of the answer, idle and busy, and chip select high. -/
theorem witness_ReadIdFrameAnswers :
    (selected [0x9F]).cs = false ∧ (selected [0x9F]).dev.wip = false ∧ ([] : List Byte).length + 1 ≤ 3 ∧
    ([0, 0] : List Byte).length + 1 ≤ 3 ∧ ¬ ([0, 0, 0] : List Byte).length + 1 ≤ 3 ∧ spiReady.cs = true :=
  ⟨rfl, rfl, by decide, by decide, by decide, rfl⟩

theorem witness_ReadStatusFrameAnswers : (selected [0x05]).cs = false ∧ spiReady.cs = true := ⟨rfl, rfl⟩

theorem witness_PageReadFrameAnswers :
    let busy : State := { selected [0x03] with dev := { FlashChip.initial with wip := true } }
    ((selected [0x03]).cs = false ∧ ([0x12, 0x34] : List Byte).length < 3) ∧ (busy.cs = false ∧ busy.dev.wip = true) ∧
    ((selected [0x03]).cs = false ∧ (selected [0x03]).dev.wip = false) ∧ spiReady.cs = true :=
  ⟨⟨rfl, by decide⟩, ⟨rfl, rfl⟩, ⟨rfl, rfl⟩, rfl⟩

theorem witness_WriteEnableFrameSetsTheLatch :
    (spiReady.cs = true ∧ spiReady.dev.wip = false) ∧ ([0x00] : List Byte) ≠ [] ∧ (selected [0x06]).cs = false :=
  ⟨⟨rfl, rfl⟩, by decide, rfl⟩

theorem witness_SectorEraseFrameErases :
    let s := { spiReady with dev := { FlashChip.initial with wel := true } }
    (s.cs = true ∧ s.dev.wel = true ∧ s.dev.wip = false) ∧ ([0x12] : List Byte).length ≠ 3 ∧
    spiReady.dev.wel = false ∧ (selected [0xD8]).cs = false := ⟨⟨rfl, rfl, rfl⟩, by decide, rfl, rfl⟩

/-- A payload of a page, and of one byte more. -/
theorem witness_PageProgramFramePrograms :
    let s := { spiReady with dev := { FlashChip.initial with wel := true } }
    (s.cs = true ∧ s.dev.wel = true ∧ s.dev.wip = false) ∧ (List.replicate 256 (0 : Byte)).length ≤ 256 ∧
    256 < (List.replicate 257 (0 : Byte)).length ∧ ([0x12] : List Byte).length < 3 ∧ (selected [0x02]).cs = false :=
  ⟨⟨rfl, rfl, rfl⟩, Nat.le_of_eq List.length_replicate, by rw [List.length_replicate]; decide, by decide, rfl⟩

theorem witness_ChipSelectEdgesAtTheChip :
    let u : State := { spiReady with par := { Params.default with flash := .unconstrained } }
    (spiReady.cs = true ∧ spiReady.par.flash = .reference) ∧
    ((selected [0x06]).cs = false ∧ (selected [0x06]).par.flash = .reference ∧
      decode (.spiFrame (selected [0x06]).dev.frame) = .ok (.frameWriteEnable [])) ∧
    ((selected []).cs = false ∧ (selected []).par.flash = .reference ∧
      decode (.spiFrame (selected []).dev.frame) = .error .emptyFrame) ∧
    u.par.flash = .unconstrained := ⟨⟨rfl, rfl⟩, ⟨rfl, rfl, rfl⟩, ⟨rfl, rfl, rfl⟩, rfl⟩

theorem witness_FlashChipEvents :
    ({ State.reset with dev := { FlashChip.initial with wip := true } } : State).dev.wip = true ∧
    State.reset.dev.wip = false := ⟨rfl, rfl⟩

theorem witness_MemoryPrimitivesMoveOneByte : 0 < State.reset.par.bufBytes ∧ 255 < State.reset.par.bufBytes := by decide

theorem witness_I2cTransmitHandlerRuns :
    (i2cSending.i2c.txifg = true ∧ i2cSending.i2c.txie = true ∧ i2cSending.arb.tx = some .i2c ∧
      i2cSending.fault = false) ∧ i2cSending.i2c.rem ≠ 0 ∧ i2cSending.i2c.cur.toNat < i2cSending.par.bufBytes ∧
    Sound i2cSending ∧ ({ i2cSending.i2c with rem := 0 } : I2cState).rem = 0 :=
  ⟨⟨rfl, rfl, rfl, rfl⟩, by decide, by decide, i2cSending_sound, rfl⟩

theorem witness_I2cNackHandlerRuns :
    let s := { i2cSending with i2c := { i2cSending.i2c with txifg := false, nackifg := true, nacked := true } }
    s.i2c.nackifg = true ∧ s.i2c.nackie = true ∧ s.arb.rx = some .i2c ∧ s.fault = false := ⟨rfl, rfl, rfl, rfl⟩

/-- Two bytes left, and one. -/
theorem witness_I2cReceiveHandlerRuns :
    (i2cTaking.i2c.rxifg = true ∧ i2cTaking.i2c.rxie = true ∧ i2cTaking.arb.rx = some .i2c ∧ i2cTaking.fault = false) ∧
    i2cTaking.i2c.cur.toNat < i2cTaking.par.bufBytes ∧ i2cTaking.i2c.rem - 1 = 1 ∧
    ({ i2cTaking.i2c with rem := 1 } : I2cState).rem - 1 = 0 ∧ Sound i2cTaking :=
  ⟨⟨rfl, rfl, rfl, rfl⟩, by decide, by decide, by decide, i2cTaking_sound⟩

theorem witness_SpiTransmitHandlerRuns :
    (spiSending.spi.txFull = false ∧ spiSending.spi.txie = true ∧ spiSending.arb.tx = some .spi ∧
      spiSending.fault = false) ∧ spiSending.spi.rem ≠ 0 ∧
    srcRead spiSending.spi.mem spiSending.spi.cur.toNat spiSending = .ok 0xA1 ∧ Sound spiSending ∧
    ({ spiSending.spi with rem := 0 } : SpiState).rem = 0 :=
  ⟨⟨rfl, rfl, rfl, rfl⟩, by decide, rfl, spiSending_sound, rfl⟩

/-- One byte left, and two. -/
theorem witness_SpiReceiveHandlerRuns :
    (spiTaking.spi.rxFull = true ∧ spiTaking.spi.rxie = true ∧ spiTaking.arb.rx = some .spi ∧
      spiTaking.fault = false) ∧
    dstWrite spiTaking.spi.mem spiTaking.spi.cur.toNat spiTaking.spi.rxbuf spiTaking =
      .ok (setBufByte spiTaking 255 0x5A) ∧
    spiTaking.spi.rem - 1 = 0 ∧ ({ spiTaking.spi with rem := 2 } : SpiState).rem - 1 ≠ 0 ∧ Sound spiTaking :=
  ⟨⟨rfl, rfl, rfl, rfl⟩, rfl, by decide, by decide, spiTaking_sound⟩

/-- A source that is not pending, an unbound vector, a cross-bound vector, a vector of its own engine. -/
theorem witness_DispatchFollowsTheVectors :
    State.reset.fault = false ∧ sourcePending .i2cTx State.reset = false ∧
    (let s := { i2cSending with arb := { i2cSending.arb with tx := none } }
     s.fault = false ∧ sourcePending .i2cTx s = true ∧ sourceSlot .i2cTx s = none) ∧
    (let s := { i2cSending with arb := { i2cSending.arb with tx := some .spi } }
     s.fault = false ∧ sourcePending .i2cTx s = true ∧ sourceSlot .i2cTx s = some .spi ∧
       Engine.spi ≠ sourceEngine .i2cTx) ∧
    i2cSending.fault = false ∧ sourcePending .i2cTx i2cSending = true ∧
    sourceSlot .i2cTx i2cSending = some (sourceEngine .i2cTx) :=
  ⟨rfl, rfl, ⟨rfl, rfl, rfl⟩, ⟨rfl, rfl, rfl, by decide⟩, rfl, rfl, rfl⟩

/-- Every action of the write program, the transfers not started and one started. -/
theorem witness_FlashSequencerSteps :
    ((flashAt 0).fault = false ∧ (flashAt 0).op.opc = some .flashRead ∧
      (flashAt 0).fl.prog[(flashAt 0).fl.pc]? = some .csl) ∧
    ((flashAt 1).fl.started = false ∧ (flashAt 1).fl.prog[(flashAt 1).fl.pc]? = some (.txc 0x03 4)) ∧
    (flashAt 2).fl.prog[(flashAt 2).fl.pc]? = some (.rxb 0 4) ∧
    (flashAt 3).fl.prog[(flashAt 3).fl.pc]? = some .csh ∧ (flashAt 3).spi.txFull = false ∧
    (flashAt 3).spi.shifting = false ∧
    (writeProgram 0 4)[6]? = some .delay ∧ (writeProgram 0 4)[12]? = some (.txb 0 4) ∧ busyProgram[2]? = some .rxs ∧
    transferAction .rxs = true := ⟨⟨rfl, rfl, rfl⟩, ⟨rfl, rfl⟩, rfl, rfl, rfl, rfl, rfl, rfl, rfl, rfl⟩

/-- A byte that shifts with chip select high, into an empty frame, into an open frame; and none that shifts. -/
theorem witness_SpiClockEvents :
    let shift := { SpiState.reset with shifting := true, shreg := (0x06 : Byte) }
    let s : State := { spiReady with spi := shift }
    let u : State := { selected [] with spi := shift }
    let v : State := { selected [0x9F] with spi := shift }
    State.reset.arb.mode ≠ .spi ∧ (s.arb.mode = .spi ∧ s.fault = false ∧ s.spi.shifting = true ∧ s.cs = true) ∧
    (u.spi.shifting = true ∧ u.cs = false ∧ u.par.flash = .reference ∧ u.dev.frame = []) ∧
    v.spi.shifting = true ∧ v.cs = false ∧ v.par.flash = .reference :=
  ⟨by decide, ⟨rfl, rfl, rfl, rfl⟩, ⟨rfl, rfl, rfl, rfl⟩, rfl, rfl, rfl⟩

theorem witness_FrozenEngineStandsStill : (faulted i2cSending 8).fault = true := rfl

/-- A wrong width, a misaligned and an unmapped offset, both ends of the window. -/
theorem witness_OtherHostAccessesFault :
    State.reset.fault = false ∧ i2cSending.fault = false ∧ (0x010 < 0x100 ∧ 8 ≠ 32) ∧
    (0x006 < 0x100 ∧ 0x006 ∉ [0x000, 0x004, 0x008, 0x00C, 0x010, 0x014]) ∧
    (0x018 < 0x100 ∧ 0x018 ∉ [0x000, 0x004, 0x008, 0x00C, 0x010, 0x014]) ∧
    (0x100 ≤ 0x100 ∧ 0x100 < 0x100 + State.reset.par.bufBytes) ∧
    (0x1FF < 0x100 + i2cSending.par.bufBytes ∧ i2cSending.op.opc ≠ none) := by decide

theorem witness_BufferWindowReadsAndWrites :
    (0 < State.reset.par.bufBytes ∧ 255 < State.reset.par.bufBytes ∧ State.reset.op.opc = none) ∧
    State.reset.fault = false ∧ 32 ≠ 8 ∧ i2cSending.fault = false ∧ i2cSending.op.opc ≠ none := by decide

/-- A step of a frozen engine, a step that raises a fault, a reset. -/
theorem witness_FaultsAreStickyAndPrecise :
    step ((faulted State.reset 3).queued (rd 0x010)) = .next { faulted State.reset 3 with rdata := some 0x00310080 } ∧
    step (State.reset.queued (wr 0 0)) = .next (faulted State.reset 1) ∧
    step ((faulted State.reset 3).queued .reset) = .next { State.reset with epoch := 1 } := ⟨rfl, rfl, rfl⟩

/-- A register write, an init, a bind. -/
theorem witness_RegistersHaveTheirWritersOnly :
    step (State.reset.queued (wr 0x004 5)) = .next (withRegs State.reset 5 0 0) ∧
    (withRegs State.reset 5 0 0).reg ≠ State.reset.reg ∧
    step (State.reset.queued (wr 0 0x20)) = .next spiReady ∧ spiReady.arb.mode ≠ State.reset.arb.mode ∧
    (after (withRegs State.reset 0 0 1) (wr 0 0x01)).map (·.arb.tx) = some (some .i2c) :=
  ⟨rfl, by decide, rfl, by decide, by decide⟩

/-- The two receive handlers and a host write, each at its byte. -/
theorem witness_BufferMemoryHasItsWritersOnly :
    (Sound i2cTaking ∧ (after i2cTaking (.isr .i2cRx)).map (bufByte · 5) = some 0xAB ∧ bufByte i2cTaking 5 = 0x99) ∧
    (Sound spiTaking ∧ (after spiTaking (.isr .spiRx)).map (bufByte · 255) = some 0x5A ∧ bufByte spiTaking 255 = 0x99) ∧
    (Sound idleWritten ∧ (after idleWritten (wrByte 0 0x3C)).map (bufByte · 0) = some 0x3C ∧
      bufByte idleWritten 0 = 0x99) :=
  ⟨⟨i2cTaking_sound, rfl, rfl⟩, ⟨spiTaking_sound, rfl, rfl⟩, idleWritten_sound, rfl, rfl⟩

/-- The issue of a write moves the phase. -/
theorem witness_I2cPhaseFollowsItsTable :
    Sound (withRegs i2cReady 0 1 0) ∧ commandMove 0x11 ≠ .reset ∧
    (after (withRegs i2cReady 0 1 0) (commandMove 0x11)).map (·.i2c.phase) = some .starting ∧
    (withRegs i2cReady 0 1 0).i2c.phase = .idle := ⟨i2cReady_sound 0 1 0, by decide, by decide, rfl⟩

/-- The issue of a write moves the phase. -/
theorem witness_SpiPhaseFollowsItsTable :
    Sound (withRegs spiReady 0 1 0) ∧ commandMove 0x21 ≠ .reset ∧
    (after (withRegs spiReady 0 1 0) (commandMove 0x21)).map (·.spi.phase) = some .waitIdle ∧
    (withRegs spiReady 0 1 0).spi.phase = .idle := ⟨spiReady_sound 0 1 0, by decide, by decide, rfl⟩

theorem witness_ResetGivesTheTableOfR33 : spiReady.cs = true := rfl

/-- The least and the greatest BUFMEM_BYTES. -/
theorem witness_StartIsSound :
    ParamsOk Params.default ∧ ParamsOk { Params.default with bufBytes := 4 } ∧
    ParamsOk { Params.default with bufBytes := 65536 } := by
  unfold ParamsOk; decide

theorem witness_EveryStepKeepsSoundness :
    Sound (i2cSending.queued (.isr .i2cTx)) ∧ (∃ t, step (i2cSending.queued (.isr .i2cTx)) = .next t) :=
  ⟨by
    obtain ⟨a, b, ⟨c1, c2, c3, c4, c5⟩, ⟨d1, d2⟩, ⟨e1, e2, e3, e4, e5, e6, e7⟩, ⟨f1, f2, f3, f4, f5, f6⟩⟩ :=
      i2cSending_sound
    exact ⟨a, b, ⟨c1, c2, c3, c4, c5⟩, ⟨d1, d2⟩, ⟨e1, e2, e3, e4, e5, e6, e7⟩, ⟨f1, f2, f3, f4, f5, f6⟩⟩,
   _, rfl⟩

/-- A step that goes on, and the first offset above the window. -/
theorem witness_SoundStepsNeverFault :
    Sound i2cSending ∧ (∃ t, step (i2cSending.queued (.isr .i2cTx)) = .next t) ∧
    0x100 + i2cSending.par.bufBytes ≤ 0x200 ∧
    step (i2cSending.queued (.host { dir := .read, bits := 8, off := 0x200, data := 0 })) = .refused .outsideEngine :=
  ⟨i2cSending_sound, ⟨_, rfl⟩, by decide, rfl⟩

/-- A pending source, and a step that raises a fault. -/
theorem witness_PendingSourceFindsItsEngine :
    Sound i2cSending ∧ sourcePending .i2cTx i2cSending = true ∧
    step (i2cSending.queued (rdByte 0)) = .next { faulted i2cSending 8 with rdata := some 0 } ∧
    i2cSending.fault = false := ⟨i2cSending_sound, rfl, rfl, rfl⟩

/-- Runs reach a live I2C operation, a live SPI operation, a live flash program, no operation, and a fault. -/
theorem witness_ReachableStatesKeepR34 :
    (∃ t, Reachable t ∧ t.op.opc = some .i2cWrite ∧ t.i2c.phase = .starting) ∧
    (∃ t, Reachable t ∧ t.op.opc = some .spiWrite ∧ t.spi.phase = .waitIdle) ∧
    (∃ t, Reachable t ∧ t.op.opc = some .flashBusy ∧ t.fl.prog ≠ []) ∧
    (∃ t, Reachable t ∧ t.op.opc = none) ∧
    Reachable { faulted State.reset 1 with par := Params.default } :=
  have start (ms : List Move) : Reachable { State.reset with par := Params.default, moves := ms } :=
    .start _ _ (by unfold ParamsOk; decide)
  ⟨⟨_, .next _ _ (.next _ _ (start [commandMove 0x10, commandMove 0x11]) rfl) rfl, rfl, rfl⟩,
   ⟨_, .next _ _ (.next _ _ (start [commandMove 0x20, commandMove 0x21]) rfl) rfl, rfl, rfl⟩,
   ⟨_, .next _ _ (.next _ _ (start [commandMove 0x30, commandMove 0x34]) rfl) rfl, rfl, by decide⟩,
   ⟨_, start [], rfl⟩,
   .next _ _ (start [wr 0 0]) rfl⟩

/-- A write of one byte, whose first handler run loads it. -/
theorem witness_I2cWriteRunsItsHandlerOncePerItem :
    let s := (withRegs i2cReady 255 1 0).queued (commandMove 0x11)
    let u := { s with moves := commandMove 0x11 :: (writeSchedule 1 ++ []) }
    ParamsOk u.par ∧ ready u ∧ u.arb = { mode := .i2c, tx := some .i2c, rx := some .i2c } ∧ u.i2c.stopping = false ∧
    u.reg.buf.toNat + u.reg.len.toNat ≤ u.par.bufBytes ∧
    u.moves = commandMove 0x00000011 :: (writeSchedule u.reg.len.toNat ++ []) ∧ 0 < u.reg.len.toNat :=
  ⟨by unfold ParamsOk; decide, ⟨rfl, rfl⟩, rfl, rfl, by decide, rfl, by decide⟩

/-- A write of one byte. -/
theorem witness_SpiWriteSendsTheBufferInOrder :
    let s := { withRegs (selected []) 255 1 0 with
      moves := commandMove 0x21 :: .seq .spiGo :: (spiWriteSchedule [0x77] ++ []) }
    ParamsOk s.par ∧ ready s ∧ s.arb = { mode := .spi, tx := some .spi, rx := some .spi } ∧ s.spi.txFull = false ∧
    s.spi.shifting = false ∧ s.cs = false ∧ s.par.flash = .reference ∧
    s.reg.buf.toNat + s.reg.len.toNat ≤ s.par.bufBytes ∧ ([0x77] : List Byte).length = s.reg.len.toNat :=
  ⟨by unfold ParamsOk; decide, ⟨rfl, rfl⟩, rfl, rfl, rfl, rfl, rfl, by decide, rfl⟩

end Sys2Proof.Tests
end

section
/-!
PROOFS. STATUS is read by laying out its word field by field: what one bit or one field of the word contributes is said
once, and each row of the table of R18 is the one contribution at its place. Faults: what any move but reset can do to
`fault` and `fcode` is one inversion, `FaultStep`, proved agent by agent.
-/

namespace Sys2Proof.Machine

/-- A listed move put first is the move the next step takes. -/
theorem step_queued (s : State) (m : Move) : step (s.queued m) = performMove m s := rfl

/-! ## The bits of a word built from fields -/

theorem getLsbD_bitAt (b : Bool) (i j : Nat) :
    (bitAt b i).getLsbD j = (decide (j < 32) && decide (j = i) && b) := by
  by_cases hij : j = i
  · subst hij
    simp [bitAt]
  · have hlow : j < i ∨ j - i ≠ 0 := by omega
    rcases hlow with hlt | hne <;> simp [bitAt, *]

theorem getLsbD_fieldAt {w : Nat} (v : BitVec w) (lo j : Nat) :
    (fieldAt v lo).getLsbD j = (decide (j < 32) && !decide (j < lo) && v.getLsbD (j - lo)) := by
  by_cases hj : j < 32 <;> simp [fieldAt, hj]

/-- A field contributes nothing to a bit outside it. -/
theorem getLsbD_fieldAt_outside {w : Nat} (v : BitVec w) {lo j : Nat} (h : j < lo ∨ lo + w ≤ j) :
    (fieldAt v lo).getLsbD j = false := by
  rw [getLsbD_fieldAt]
  rcases h with hlt | hge
  · simp [hlt]
  · simp [BitVec.getLsbD_of_ge v (j - lo) (by omega)]

@[simp] theorem getElem_bitAt (b : Bool) (i : Nat) {j : Nat} (hj : j < 32) :
    (bitAt b i)[j] = (decide (j = i) && b) := by
  simp [← BitVec.getLsbD_eq_getElem, getLsbD_bitAt, hj]

@[simp] theorem getElem_fieldAt_outside {w : Nat} (v : BitVec w) {lo j : Nat} (hj : j < 32)
    (h : j < lo ∨ lo + w ≤ j) : (fieldAt v lo)[j] = false := by
  rw [← BitVec.getLsbD_eq_getElem, getLsbD_fieldAt_outside v h]

/-- A bit contributes nothing to a field it is not in. -/
@[simp] theorem extractLsb'_bitAt_outside (b : Bool) {i lo n : Nat} (h : i < lo ∨ lo + n ≤ i) :
    (bitAt b i).extractLsb' lo n = 0#n := by
  ext k hk
  have hki : lo + k ≠ i := by omega
  simp [BitVec.getElem_extractLsb', getLsbD_bitAt, hki]

/-- A field contributes nothing to a field apart from it. -/
@[simp] theorem extractLsb'_fieldAt_outside {w : Nat} (v : BitVec w) {lo start n : Nat}
    (h : lo + w ≤ start ∨ start + n ≤ lo) : (fieldAt v lo).extractLsb' start n = 0#n := by
  ext k hk
  simpa [BitVec.getElem_extractLsb'] using getLsbD_fieldAt_outside v (lo := lo) (j := start + k) (by omega)

/-- A field that fits the word is read back whole. -/
@[simp] theorem extractLsb'_fieldAt_same {w : Nat} (v : BitVec w) {lo : Nat} (h : lo + w ≤ 32) :
    (fieldAt v lo).extractLsb' lo w = v := by
  ext k hk
  have hlt : lo + k < 32 := by omega
  rw [BitVec.getElem_extractLsb', getLsbD_fieldAt]
  simp [hlt, hk]

/-! ## STATUS (10_state.md R18) -/

/-- The one-bit rows of the table. -/
theorem statusWord_flags (s : State) :
    (statusWord s).getLsbD 0 = s.op.opc.isSome ∧ (statusWord s).getLsbD 1 = s.res.nack ∧
    (statusWord s).getLsbD 2 = s.res.spib ∧ (statusWord s).getLsbD 3 = s.res.wip ∧
    (statusWord s).getLsbD 4 = spiBusy s ∧ (statusWord s).getLsbD 5 = s.i2c.stopping ∧
    (statusWord s).getLsbD 6 = decide (s.arb.mode = .spi) ∧ (statusWord s).getLsbD 7 = s.cs ∧
    (statusWord s).getLsbD 12 = s.i2c.held ∧ (statusWord s).getLsbD 16 = s.fault := by
  simp [statusWord]

/-- The rows of several bits: the two slots and the fault code. -/
theorem statusWord_fields (s : State) :
    (statusWord s).extractLsb' 8 2 = slotCode s.arb.tx ∧ (statusWord s).extractLsb' 10 2 = slotCode s.arb.rx ∧
    (statusWord s).extractLsb' 20 4 = s.fcode := by
  simp [statusWord, BitVec.extractLsb'_or]

/-- The bits of the table that are reserved read as 0. -/
theorem statusWord_reserved (s : State) :
    (statusWord s).extractLsb' 13 3 = 0#3 ∧ (statusWord s).extractLsb' 17 3 = 0#3 ∧
    (statusWord s).extractLsb' 24 8 = 0#8 := by
  simp [statusWord, BitVec.extractLsb'_or]

theorem step_read_status (s : State) (w : Word) :
    step (s.queued (.host { dir := .read, bits := 32, off := 0x010, data := w })) =
      .next (answerHost (statusWord s) s) := rfl

theorem step_write_status (s : State) (w : Word) :
    step (s.queued (.host { dir := .write, bits := 32, off := 0x010, data := w })) = .next s := rfl

/-- Settles O45: the read answers `statusWord`, whose bits are those of its fields. -/
theorem statusBitsOfTheState : Obligations.StatusBitsOfTheState := by
  refine ⟨fun s w => ⟨step_write_status s w, statusWord s, step_read_status s w, ?_⟩, by decide⟩
  obtain ⟨hlive, hnack, hspib, hwip, hbusy, hstopping, hmode, hcs, hheld, hfault⟩ := statusWord_flags s
  obtain ⟨htx, hrx, hcode⟩ := statusWord_fields s
  obtain ⟨hres13, hres17, hres24⟩ := statusWord_reserved s
  refine ⟨hlive.trans ?_, hnack, hspib, hwip, hbusy, hstopping, hmode, hcs, htx.trans ?_, hrx.trans ?_,
    hheld, hres13, hfault, hres17, hcode, hres24⟩
  · cases s.op.opc <;> rfl
  · rcases s.arb.tx with _ | _ | _ <;> rfl
  · rcases s.arb.rx with _ | _ | _ <;> rfl

/-! ## What a step does to the fault (10_state.md R28, 60_exceptions.md R132) -/

/-- The fault and its code stay. -/
def KeepsFault (s t : State) : Prop := t.fault = s.fault ∧ t.fcode = s.fcode

/-- All that a move other than reset can do to the fault: keep it, or raise one in the state before the step and change
nothing else, a faulting host read answering 0. -/
inductive FaultStep (s : State) : State → Prop where
  | keeps {t : State} (h : KeepsFault s t) : FaultStep s t
  | raises (f : FaultCode) : FaultStep s (raiseFault f s)
  | raisesOnRead (f : FaultCode) : FaultStep s (answerHost 0 (raiseFault f s))

/-- A command's issue effect never touches the fault. -/
def EffectKeepsFault (effect : State → Except FaultCode State) : Prop :=
  ∀ u v, effect u = .ok v → KeepsFault u v

/-- A command whose effect keeps the fault keeps it or raises one (30_encoding.md R64). -/
theorem issue_faultStep {o : Opcode} {stop : Bool} {effect : State → Except FaultCode State} {s t : State}
    (heff : EffectKeepsFault effect) (h : issue o stop effect s = .next t) : FaultStep s t := by
  rcases issue_cases h with ⟨_, rfl⟩ | ⟨_, _, rfl⟩ | ⟨_, _, f, _, rfl⟩ | ⟨_, _, _, f, _, rfl⟩ | ⟨_, _, _, hok⟩
  · exact .keeps ⟨rfl, rfl⟩
  · exact .raises .busyCmd
  · exact .raises f
  · exact .raises f
  · exact .keeps (heff (latchOp o stop s) t hok)

theorem effectKeepsFault_of_ok {f : State → State} (hf : ∀ u, KeepsFault u (f u)) :
    EffectKeepsFault (fun u => .ok (f u)) := by
  intro u v h
  cases h
  exact hf u

theorem spiInitState_keepsFault (s : State) : KeepsFault s (spiInitState s) := by
  simp [KeepsFault, spiInitState]

theorem csLow_keepsFault (s : State) : KeepsFault s (csLow s) := ⟨csLow_fault s, csLow_fcode s⟩

theorem csHigh_keepsFault (s : State) : KeepsFault s (csHigh s) := ⟨csHigh_fault s, csHigh_fcode s⟩

theorem bindTx_keepsFault : EffectKeepsFault bindTx := by
  intro u v h
  unfold bindTx at h
  split at h <;> cases h
  exact ⟨rfl, rfl⟩

theorem bindRx_keepsFault : EffectKeepsFault bindRx := by
  intro u v h
  unfold bindRx at h
  split at h <;> cases h
  exact ⟨rfl, rfl⟩

theorem i2cInit_keepsFault : EffectKeepsFault i2cInit := effectKeepsFault_of_ok fun _ => ⟨rfl, rfl⟩
theorem i2cWrite_keepsFault : EffectKeepsFault i2cWrite := effectKeepsFault_of_ok fun _ => ⟨rfl, rfl⟩
theorem i2cRead_keepsFault : EffectKeepsFault i2cRead := effectKeepsFault_of_ok fun _ => ⟨rfl, rfl⟩
theorem spiInit_keepsFault : EffectKeepsFault spiInit := effectKeepsFault_of_ok spiInitState_keepsFault
theorem spiWrite_keepsFault : EffectKeepsFault spiWrite := effectKeepsFault_of_ok fun _ => ⟨rfl, rfl⟩
theorem spiRead_keepsFault : EffectKeepsFault spiRead := effectKeepsFault_of_ok fun _ => ⟨rfl, rfl⟩
theorem spiBusyQuery_keepsFault : EffectKeepsFault spiBusyQuery := effectKeepsFault_of_ok fun _ => ⟨rfl, rfl⟩
theorem spiCsLow_keepsFault : EffectKeepsFault spiCsLow := effectKeepsFault_of_ok csLow_keepsFault
theorem spiCsHigh_keepsFault : EffectKeepsFault spiCsHigh := effectKeepsFault_of_ok fun _ => ⟨rfl, rfl⟩
theorem flashInit_keepsFault : EffectKeepsFault flashInit := effectKeepsFault_of_ok spiInitState_keepsFault
theorem flashReadId_keepsFault : EffectKeepsFault flashReadId := effectKeepsFault_of_ok fun _ => ⟨rfl, rfl⟩
theorem flashRead_keepsFault : EffectKeepsFault flashRead := effectKeepsFault_of_ok fun _ => ⟨rfl, rfl⟩
theorem flashWrite_keepsFault : EffectKeepsFault flashWrite := effectKeepsFault_of_ok fun _ => ⟨rfl, rfl⟩
theorem flashBusy_keepsFault : EffectKeepsFault flashBusy := effectKeepsFault_of_ok fun _ => ⟨rfl, rfl⟩

theorem runFrame_keepsFault (c : FrameCmd) (l : List Byte) (s : State) : KeepsFault s (runFrame c l s) :=
  ⟨runFrame_fault c l s, runFrame_fcode c l s⟩

theorem exec_frame_faultStep {c : FrameCmd} {l : List Byte} {s t : State} (h : exec (c.instr l) s = .next t) :
    FaultStep s t := by
  rw [exec_frame] at h
  cases h
  exact .keeps (runFrame_keepsFault c l s)

theorem exec_faultStep {i : Instr} {s t : State} (h : exec i s = .next t) : FaultStep s t := by
  cases i with
  | bindTx => exact issue_faultStep bindTx_keepsFault (exec_bindTx s ▸ h)
  | bindRx => exact issue_faultStep bindRx_keepsFault (exec_bindRx s ▸ h)
  | i2cInit => exact issue_faultStep i2cInit_keepsFault (exec_i2cInit s ▸ h)
  | i2cWrite stop => exact issue_faultStep i2cWrite_keepsFault (exec_i2cWrite stop s ▸ h)
  | i2cRead => exact issue_faultStep i2cRead_keepsFault (exec_i2cRead s ▸ h)
  | spiInit => exact issue_faultStep spiInit_keepsFault (exec_spiInit s ▸ h)
  | spiWrite => exact issue_faultStep spiWrite_keepsFault (exec_spiWrite s ▸ h)
  | spiRead => exact issue_faultStep spiRead_keepsFault (exec_spiRead s ▸ h)
  | spiBusy => exact issue_faultStep spiBusyQuery_keepsFault (exec_spiBusy s ▸ h)
  | spiCsLow => exact issue_faultStep spiCsLow_keepsFault (exec_spiCsLow s ▸ h)
  | spiCsHigh => exact issue_faultStep spiCsHigh_keepsFault (exec_spiCsHigh s ▸ h)
  | flashInit => exact issue_faultStep flashInit_keepsFault (exec_flashInit s ▸ h)
  | flashReadId => exact issue_faultStep flashReadId_keepsFault (exec_flashReadId s ▸ h)
  | flashRead => exact issue_faultStep flashRead_keepsFault (exec_flashRead s ▸ h)
  | flashWrite => exact issue_faultStep flashWrite_keepsFault (exec_flashWrite s ▸ h)
  | flashBusy => exact issue_faultStep flashBusy_keepsFault (exec_flashBusy s ▸ h)
  | frameReadId l => exact exec_frame_faultStep (c := .readId) h
  | frameRead l => exact exec_frame_faultStep (c := .read) h
  | frameWriteEnable l => exact exec_frame_faultStep (c := .writeEnable) h
  | frameSectorErase l => exact exec_frame_faultStep (c := .sectorErase) h
  | framePageProgram l => exact exec_frame_faultStep (c := .pageProgram) h
  | frameReadStatus l => exact exec_frame_faultStep (c := .readStatus) h

/-! ### The host -/

theorem writeCmd_faultStep {w : Word} {s t : State} (h : writeCmd w s = .next t) : FaultStep s t := by
  unfold writeCmd at h
  split at h
  · cases h
    exact .keeps ⟨rfl, rfl⟩
  · split at h
    · cases h
      exact .raises .illegalCmd
    · exact exec_faultStep h

theorem faultingAccess_faultStep (d : Dir) (s : State) : FaultStep s (faultingAccess d s) := by
  cases d with
  | read => exact .raisesOnRead .hostAccess
  | write => exact .raises .hostAccess

theorem answerHost_faultStep (w : Word) (s : State) : FaultStep s (answerHost w s) := .keeps ⟨rfl, rfl⟩

/-- A register write is a command, or stores operands and keeps the fault (20_memory.md R39). -/
theorem regWrite?_faultStep {off : Nat} {w : Word} {s t : State} (h : regWrite? off w s = some (.next t)) :
    FaultStep s t := by
  unfold regWrite? at h
  split at h
  · exact writeCmd_faultStep (Option.some.inj h)
  · repeat' split at h
    all_goals cases h
    all_goals exact .keeps ⟨rfl, rfl⟩

theorem regAccess_faultStep {a : HostAccess} {s t : State} (h : regAccess a s = .next t) : FaultStep s t := by
  unfold regAccess at h
  split at h
  · cases h
    exact faultingAccess_faultStep a.dir s
  · split at h
    · split at h <;> cases h
      · exact answerHost_faultStep _ s
      · exact faultingAccess_faultStep .read s
    · split at h
      · subst h
        exact regWrite?_faultStep ‹_›
      · cases h
        exact faultingAccess_faultStep .write s

theorem windowAccess_faultStep (a : HostAccess) (i : Nat) (s : State) : FaultStep s (windowAccess a i s) := by
  unfold windowAccess
  split
  · exact faultingAccess_faultStep a.dir s
  · split
    · exact answerHost_faultStep _ s
    · exact .keeps ⟨rfl, rfl⟩

theorem hostAccess_faultStep {a : HostAccess} {s t : State} (h : hostAccess a s = .next t) : FaultStep s t := by
  unfold hostAccess at h
  split at h
  · exact regAccess_faultStep h
  · split at h <;> cases h
    exact windowAccess_faultStep a _ s

/-! ### The handlers -/

theorem dstWrite_keepsFault {m : SpiMem} {i : Nat} {v : Byte} {s t : State} (h : dstWrite m i v s = .ok t) :
    KeepsFault s t := by
  obtain ⟨_, ⟨_, rfl⟩ | ⟨_, g, _, rfl⟩ | ⟨_, rfl⟩⟩ := dstWrite_ok h <;> exact ⟨rfl, rfl⟩

theorem i2cTxHandler_keepsFault {s t : State} (h : i2cTxHandler s = .next t) : KeepsFault s t := by
  unfold i2cTxHandler at h
  repeat' split at h
  all_goals cases h
  all_goals exact ⟨rfl, rfl⟩

theorem spiTxHandler_keepsFault {s t : State} (h : spiTxHandler s = .next t) : KeepsFault s t := by
  unfold spiTxHandler at h
  repeat' split at h
  all_goals cases h
  all_goals exact ⟨rfl, rfl⟩

theorem i2cRxHandler_keepsFault {s t : State} (h : i2cRxHandler s = .next t) : KeepsFault s t := by
  unfold i2cRxHandler at h
  split at h
  · cases h
  · rename_i u hu
    obtain ⟨_, rfl⟩ := memWrite_ok hu
    split at h <;> cases h <;> exact ⟨rfl, rfl⟩

theorem spiRxHandler_keepsFault {s t : State} (h : spiRxHandler s = .next t) : KeepsFault s t := by
  unfold spiRxHandler at h
  split at h
  · cases h
  · rename_i u hu
    have hk := dstWrite_keepsFault hu
    split at h <;> cases h <;> exact hk

theorem runHandler_keepsFault {src : Source} {s t : State} (h : runHandler src s = .next t) : KeepsFault s t := by
  cases src with
  | i2cTx => exact i2cTxHandler_keepsFault h
  | i2cRx => exact i2cRxHandler_keepsFault h
  | i2cNack =>
    cases h
    exact ⟨rfl, rfl⟩
  | spiTx => exact spiTxHandler_keepsFault h
  | spiRx => exact spiRxHandler_keepsFault h

theorem dispatchIsr_faultStep {src : Source} {s t : State} (h : dispatchIsr src s = .next t) : FaultStep s t := by
  unfold dispatchIsr at h
  split at h
  · exact .keeps (runHandler_keepsFault h)
  · cases h
    exact .raises .modeMismatch

/-! ### The sequencer and the environment -/

theorem runAction?_keepsFault {a : Action} {s t : State} (h : runAction? a s = some t) : KeepsFault s t := by
  cases a <;> simp only [runAction?, actionStart?] at h
  case csl =>
    cases h
    exact csLow_keepsFault _
  case csh =>
    split at h <;> cases h
    exact csHigh_keepsFault _
  case delay => cases h
  all_goals
    repeat' split at h
    all_goals cases h
    all_goals exact ⟨rfl, rfl⟩

theorem flashStep?_keepsFault {s t : State} (h : flashStep? s = some t) : KeepsFault s t := by
  unfold flashStep? at h
  split at h
  · split at h
    · cases h
    · exact runAction?_keepsFault h
  · cases h

theorem i2cWriteCont_keepsFault (s : State) : KeepsFault s (i2cWriteCont s) := by
  unfold i2cWriteCont
  split <;> exact ⟨rfl, rfl⟩

theorem spiGo_keepsFault (s : State) : KeepsFault s (spiGo s) := by
  unfold spiGo
  split <;> exact ⟨rfl, rfl⟩

theorem spiFinish_keepsFault (s : State) : KeepsFault s (spiFinish s) := by
  unfold spiFinish
  split <;> exact ⟨rfl, rfl⟩

theorem csHighFinish_keepsFault (s : State) : KeepsFault s (csHighFinish s) :=
  csHigh_keepsFault (finishOp s)

theorem evSpiShiftDone_keepsFault (line : Byte) (s : State) : KeepsFault s (evSpiShiftDone line s) := by
  simp [KeepsFault, evSpiShiftDone]

theorem runSeq_keepsFault (k : SeqStep) (s : State) : KeepsFault s (runSeq k s) := by
  cases k with
  | i2cWriteCont => exact i2cWriteCont_keepsFault s
  | spiGo => exact spiGo_keepsFault s
  | spiFinish => exact spiFinish_keepsFault s
  | csHighFinish => exact csHighFinish_keepsFault s
  | flashStep =>
    simp only [runSeq]
    cases hstep : flashStep? s with
    | none => exact ⟨rfl, rfl⟩
    | some t => exact flashStep?_keepsFault hstep
  | i2cWriteFinish | i2cReadFinish | flashFinish => exact ⟨rfl, rfl⟩

theorem runEnv_keepsFault (e : EnvEvent) (s : State) : KeepsFault s (runEnv e s) := by
  cases e with
  | spiShiftDone line => exact evSpiShiftDone_keepsFault line s
  | _ => exact ⟨rfl, rfl⟩

/-! ### Every move -/

theorem runMove_faultStep {m : Move} {s t : State} (hm : m ≠ .reset) (h : runMove m s = .next t) : FaultStep s t := by
  cases m with
  | host a => exact hostAccess_faultStep h
  | seq k =>
    cases h
    exact .keeps (runSeq_keepsFault k s)
  | isr src => exact dispatchIsr_faultStep h
  | env e =>
    cases h
    exact .keeps (runEnv_keepsFault e s)
  | reset => exact absurd rfl hm

/-- What a step other than reset does to the fault. -/
theorem step_faultStep {m : Move} {s t : State} (hm : m ≠ .reset) (h : step (s.queued m) = .next t) :
    FaultStep s t := by
  rw [step_queued] at h
  obtain ⟨_, rfl⟩ | ⟨_, hrun⟩ := performMove_cases h
  · exact .keeps ⟨rfl, rfl⟩
  · exact runMove_faultStep hm hrun

theorem faultNumber_range (f : FaultCode) : 1 ≤ (faultNumber f).toNat ∧ (faultNumber f).toNat ≤ 8 := by
  cases f <;> decide

/-- A raised fault is the number of its code, and all else is as it was. -/
theorem raiseFault_of_clear {f : FaultCode} {s : State} (h : s.fault = false) :
    raiseFault f s = faulted s (faultNumber f) := by
  simp [raiseFault, h, faulted]

/-- A set fault is sticky. -/
theorem FaultStep.sticky {s t : State} (h : FaultStep s t) (hs : s.fault = true) :
    t.fault = true ∧ t.fcode = s.fcode := by
  cases h with
  | keeps hk =>
    obtain ⟨hfault, hcode⟩ := hk
    exact ⟨hfault.trans hs, hcode⟩
  | raises f => simp [hs]
  | raisesOnRead f => simp [hs]

/-- A fault that comes up is precise. -/
theorem FaultStep.precise {s t : State} (h : FaultStep s t) (hs : s.fault = false) (ht : t.fault = true) :
    1 ≤ t.fcode.toNat ∧ t.fcode.toNat ≤ 8 ∧ t = { s with fault := true, fcode := t.fcode, rdata := t.rdata } ∧
      (t.rdata = s.rdata ∨ t.rdata = some 0) := by
  cases h with
  | keeps hk =>
    obtain ⟨hfault, _⟩ := hk
    simp [hfault, hs] at ht
  | raises f =>
    obtain ⟨hlow, hhigh⟩ := faultNumber_range f
    rw [raiseFault_of_clear hs]
    exact ⟨hlow, hhigh, rfl, .inl rfl⟩
  | raisesOnRead f =>
    obtain ⟨hlow, hhigh⟩ := faultNumber_range f
    rw [raiseFault_of_clear hs]
    exact ⟨hlow, hhigh, rfl, .inr rfl⟩

/-- Settles O48: every move but reset is a `FaultStep`, which is sticky and precise. -/
theorem faultsAreStickyAndPrecise : Obligations.FaultsAreStickyAndPrecise := by
  intro m s t h
  refine ⟨fun hm => (step_faultStep hm h).sticky, fun hm => (step_faultStep hm h).precise, ?_⟩
  rintro rfl
  cases h
  exact ⟨rfl, rfl⟩

end Sys2Proof.Machine
end

section
/-!
PROOFS. The three frames that write the flash chip (20_memory.md R56, R57, R58). Each is a `respond` with its own act, so
the byte clocked with chip select low and the rise that ignores the frame are said once for any act; what is left to each
frame is what its act does to the bytes of `M`.
-/

namespace Sys2Proof.Machine

/-! ## A frame's two phases (20_memory.md R52) -/

theorem exec_frameWriteEnable (tail : List Byte) (s : State) :
    exec (.frameWriteEnable tail) s = .next (respond s.spi.rxbuf (enableWrites tail) s) :=
  exec_frame .writeEnable tail s

theorem exec_frameSectorErase (tail : List Byte) (s : State) :
    exec (.frameSectorErase tail) s = .next (respond s.spi.rxbuf (eraseSector tail) s) :=
  exec_frame .sectorErase tail s

theorem exec_framePageProgram (tail : List Byte) (s : State) :
    exec (.framePageProgram tail) s = .next (respond s.spi.rxbuf (programPage tail) s) :=
  exec_frame .pageProgram tail s

theorem respond_high {s : State} (hcs : s.cs = true) (miso : Byte) (act : State → State) :
    respond miso act s = clearFrame (act s) := by simp [respond, hcs]

/-- The rise that ends an ignored frame drops the frame. -/
theorem respond_ignored {s : State} {act : State → State} (hcs : s.cs = true) (hact : act s = s) (miso : Byte) :
    respond miso act s = { s with dev := { s.dev with frame := [] } } := by
  rw [respond_high hcs, hact, clearFrame]

/-- A byte of a frame that answers any value: the chip takes it, the receive register keeps what the line carried. -/
theorem respond_low_unanswered {s : State} (hcs : s.cs = false) (act : State → State) :
    respond s.spi.rxbuf act s = { s with dev := { s.dev with frame := s.dev.frame ++ [s.spi.shreg] } } := by
  simp [respond, hcs, exchangeByte]

/-! ## Write enable (20_memory.md R56) -/

/-- Settles O25: the act sets the latch for the command byte alone at an idle chip, and is ignored otherwise. -/
theorem writeEnableFrameSetsTheLatch : Obligations.WriteEnableFrameSetsTheLatch := by
  intro s tail
  simp only [exec_frameWriteEnable]
  refine ⟨fun hcs htail hwip => ?_, fun hcs hignored => ?_, fun hcs => ?_⟩
  · subst htail
    rw [respond_high hcs, enableWrites_sets hwip, clearFrame]
  · rw [respond_ignored hcs (enableWrites_ignored hignored)]
  · rw [respond_low_unanswered hcs]

/-! ## Sector erase (20_memory.md R57) -/

/-- The sector of an address is the aligned block of 65536 bytes around it. -/
theorem sectorOf_eq_iff (a x : Nat) :
    sectorOf x = sectorOf a ↔ a - a % 65536 ≤ x ∧ x < a - a % 65536 + 65536 := by
  simp only [sectorOf, Config.sectorBytes]
  omega

theorem flashByte_eraseSector_inside (d : FlashChip) (a : Nat) {j : Nat} (hj : j < 65536) :
    flashByte (flashEraseSector d (sectorOf a)) (a - a % 65536 + j) = 0xFF := by
  rw [flashByte_flashEraseSector, if_pos ((sectorOf_eq_iff _ _).2 (by omega))]

theorem flashByte_eraseSector_outside (d : FlashChip) (a : Nat) {x : Nat}
    (hx : x < a - a % 65536 ∨ a - a % 65536 + 65536 ≤ x) :
    flashByte (flashEraseSector d (sectorOf a)) x = flashByte d x := by
  rw [flashByte_flashEraseSector, if_neg (mt (sectorOf_eq_iff _ _).1 (by omega))]

/-- Settles O26: the sector erased is the aligned block of 65536 bytes around the frame's address. -/
theorem sectorEraseFrameErases : Obligations.SectorEraseFrameErases := by
  intro s
  simp only [exec_frameSectorErase]
  refine ⟨fun hcs hwel hwip a2 a1 a0 => ?_, fun hcs tail hignored => ?_, fun hcs tail => ?_⟩
  · have herase := eraseSector_erases (l := [a2, a1, a0]) rfl rfl hwel hwip
    rw [respond_high hcs, herase]
    exact ⟨_, rfl, rfl, rfl, rfl, fun _ hj => flashByte_eraseSector_inside _ _ hj,
      fun _ hx => flashByte_eraseSector_outside _ _ hx⟩
  · rw [respond_ignored hcs (eraseSector_ignored hignored)]
  · rw [respond_low_unanswered hcs]

/-! ## Page program (20_memory.md R58) -/

/-- A frame that is too short to carry an address, or that meets a chip not enabled or busy, programs nothing. -/
theorem programPage_unprepared {tail : List Byte} {s : State}
    (h : tail.length < 3 ∨ s.dev.wel = false ∨ s.dev.wip = true) : programPage tail s = s :=
  programPage_ignored (h.imp_left frameAddr?_short)

/-- Settles O27: a payload that fits is ANDed in byte by byte (`flashByte_programBytes`), a longer one touches the page
alone. -/
theorem pageProgramFramePrograms : Obligations.PageProgramFramePrograms := by
  intro s
  simp only [exec_framePageProgram]
  refine ⟨fun hcs hwel hwip a2 a1 a0 d => ⟨fun hfits => ?_, fun hlong => ?_⟩,
    fun hcs tail hignored => ?_, fun hcs tail => ?_⟩
  · have hprogram := programPage_fits (l := a2 :: a1 :: a0 :: d) rfl hwel hwip hfits
    obtain ⟨hinside, houtside⟩ :=
      flashByte_programBytes (a2 ++ a1 ++ a0).toNat d 0 s.dev (by omega)
    simp only [Nat.zero_add] at hinside houtside
    rw [respond_high hcs, hprogram]
    exact ⟨_, rfl, rfl, rfl, rfl, hinside, houtside⟩
  · obtain ⟨c, hprogram, houtside⟩ := programPage_scrambles (l := a2 :: a1 :: a0 :: d) rfl hwel hwip hlong
    rw [respond_high hcs, hprogram]
    exact ⟨_, _, rfl, rfl, rfl, rfl, houtside⟩
  · rw [respond_ignored hcs (programPage_unprepared hignored)]
  · rw [respond_low_unanswered hcs]

end Sys2Proof.Machine
end

section
/-!
PROOFS. Ownership of the bus (40_arbiter.md R82). The ownership checks come first in the order of R134, so a transfer
command of an engine that does not own the bus is turned away with MODE_MISMATCH whatever else holds; that is said once
for any command that needs the engine.
-/

namespace Sys2Proof.Machine

/-! ## A command that the issue check turns away (30_encoding.md R64) -/

theorem issue_turnedAway {o : Opcode} {f : FaultCode} {s : State} (hready : ready s) (hcheck : issueCheck o s = some f)
    (stop : Bool) (effect : State → Except FaultCode State) :
    issue o stop effect s = .next (faulted s (faultNumber f)) := by
  obtain ⟨hclear, hidle⟩ := hready
  simp [issue, hclear, hidle, hcheck, raiseFault_of_clear hclear]

/-! ## The ownership checks (60_exceptions.md R134, R137) -/

theorem owns_eq_false {e : Engine} {s : State} (h : ¬ (s.arb.mode = e ∧ s.arb.tx = some e ∧ s.arb.rx = some e)) :
    owns e s = false :=
  eq_false_of_ne_true (mt (owns_iff e s).1 h)

theorem issueCheck_i2c_unowned {o : Opcode} {s : State} (hneeds : needsI2c o = true) (howns : owns .i2c s = false) :
    issueCheck o s = some .modeMismatch := by
  simp [issueCheck, hneeds, howns]

theorem issueCheck_spi_unowned {o : Opcode} {s : State} (hneeds : needsSpi o = true) (howns : owns .spi s = false) :
    issueCheck o s = some .modeMismatch := by
  simp [issueCheck, hneeds, howns]

/-! ## The transfer commands (40_arbiter.md R82) -/

theorem exec_i2cTransfer_unowned {s : State} (hready : ready s) (howns : owns .i2c s = false) {i : Instr}
    (hi : i ∈ [Instr.i2cWrite false, .i2cWrite true, .i2cRead]) : exec i s = .next (faulted s 3) := by
  have turnedAway {o : Opcode} (hneeds : needsI2c o = true) :=
    issue_turnedAway hready (issueCheck_i2c_unowned hneeds howns)
  simp only [List.mem_cons, List.not_mem_nil, or_false] at hi
  rcases hi with rfl | rfl | rfl
  · exact (exec_i2cWrite false s).trans (turnedAway rfl _ _)
  · exact (exec_i2cWrite true s).trans (turnedAway rfl _ _)
  · exact (exec_i2cRead s).trans (turnedAway rfl _ _)

theorem exec_spiTransfer_unowned {s : State} (hready : ready s) (howns : owns .spi s = false) {i : Instr}
    (hi : i ∈ [Instr.spiWrite, .spiRead, .spiCsLow, .spiCsHigh, .flashReadId, .flashRead, .flashWrite, .flashBusy]) :
    exec i s = .next (faulted s 3) := by
  have turnedAway {o : Opcode} (hneeds : needsSpi o = true) :=
    issue_turnedAway hready (issueCheck_spi_unowned hneeds howns)
  simp only [List.mem_cons, List.not_mem_nil, or_false] at hi
  rcases hi with rfl | rfl | rfl | rfl | rfl | rfl | rfl | rfl
  · exact (exec_spiWrite s).trans (turnedAway rfl _ _)
  · exact (exec_spiRead s).trans (turnedAway rfl _ _)
  · exact (exec_spiCsLow s).trans (turnedAway rfl _ _)
  · exact (exec_spiCsHigh s).trans (turnedAway rfl _ _)
  · exact (exec_flashReadId s).trans (turnedAway rfl _ _)
  · exact (exec_flashRead s).trans (turnedAway rfl _ _)
  · exact (exec_flashWrite s).trans (turnedAway rfl _ _)
  · exact (exec_flashBusy s).trans (turnedAway rfl _ _)

/-- Settles O17: each transfer command needs its engine, and the ownership checks are the first of R134. -/
theorem transferWithoutOwnershipFaults : Obligations.TransferWithoutOwnershipFaults := fun _ hready =>
  ⟨fun hnot _ hi => exec_i2cTransfer_unowned hready (owns_eq_false hnot) hi,
   fun hnot _ hi => exec_spiTransfer_unowned hready (owns_eq_false hnot) hi⟩

end Sys2Proof.Machine
end

section
/-!
PROOFS. The four events of the I2C bus (41_i2c.md R95 to R98). An event of the environment has its effect or none by its
guard; that is said once for every event, and each event of the bus then owes its guard as a proposition and its effect
where the guard holds.
-/

namespace Sys2Proof.Machine

/-- An event of the environment has its effect exactly when it is enabled (00_scope.md R9). -/
theorem step_env (e : EnvEvent) (s : State) :
    step (s.queued (.env e)) = .next (if envEnabled e s then runEnv e s else s) :=
  (apply_ite Host.Outcome.next (envEnabled e s = true) (runEnv e s) s).symm

/-- An event whose guard is `P`, and which makes `t` of the state where `P` holds. -/
theorem step_env_eq {e : EnvEvent} {s t : State} {P : Prop} [Decidable P] (hguard : envEnabled e s = true ↔ P)
    (heffect : P → runEnv e s = t) : step (s.queued (.env e)) = .next (if P then t else s) := by
  rw [step_env]
  by_cases hP : P
  · rw [if_pos (hguard.2 hP), if_pos hP, heffect hP]
  · rw [if_neg (mt hguard.1 hP), if_neg hP]

/-! ## The guards -/

theorem i2cBusLive_iff (s : State) : i2cBusLive s = true ↔ s.arb.mode = .i2c ∧ s.fault = false := by
  simp [i2cBusLive]

theorem evI2cTxRdyEnabled_iff (s : State) :
    evI2cTxRdyEnabled s = true ↔ s.arb.mode = .i2c ∧ s.fault = false ∧ s.i2c.dir = .tx ∧
      (s.i2c.phase = .starting ∨ s.i2c.phase = .transmitting) ∧
      s.i2c.txifg = false ∧ s.i2c.nacked = false ∧ s.i2c.done = false := by
  simp [evI2cTxRdyEnabled, i2cBusLive_iff, and_assoc]

theorem evI2cNackEnabled_iff (s : State) :
    evI2cNackEnabled s = true ↔ s.arb.mode = .i2c ∧ s.fault = false ∧ s.i2c.nacked = false ∧ s.i2c.done = false ∧
      ((s.i2c.dir = .tx ∧ (s.i2c.phase = .starting ∨ s.i2c.phase = .transmitting) ∧ s.i2c.txifg = false) ∨
       (s.i2c.dir = .rx ∧ s.i2c.phase = .starting ∧ s.i2c.rxifg = false)) := by
  simp [evI2cNackEnabled, i2cBusLive_iff, and_assoc]

theorem evI2cRxByteEnabled_iff (s : State) :
    evI2cRxByteEnabled s = true ↔ s.arb.mode = .i2c ∧ s.fault = false ∧ s.i2c.dir = .rx ∧
      (s.i2c.phase = .starting ∨ s.i2c.phase = .receiving) ∧
      s.i2c.rxifg = false ∧ s.i2c.nacked = false ∧ s.i2c.finalRx = false ∧ s.i2c.done = false := by
  simp [evI2cRxByteEnabled, i2cBusLive_iff, and_assoc]

theorem evI2cStopDoneEnabled_iff (s : State) :
    evI2cStopDoneEnabled s = true ↔ s.arb.mode = .i2c ∧ s.fault = false ∧ s.i2c.stopping = true ∧
      (s.i2c.dir = .tx ∨ s.i2c.finalRx = true ∨ s.i2c.nacked = true) := by
  simp [evI2cStopDoneEnabled, i2cBusLive_iff, and_assoc, or_assoc]

/-! ## The effects that ask about the phase or the stop -/

/-- The acknowledge of the address or of a byte leaves the write in `TRANSMITTING`. -/
theorem evI2cTxRdy_eq {s : State} (hphase : s.i2c.phase = .starting ∨ s.i2c.phase = .transmitting) :
    evI2cTxRdy s = { s with i2c := { s.i2c with txifg := true, phase := .transmitting } } := by
  rcases hphase with hphase | hphase <;> simp [evI2cTxRdy, hphase]

/-- A byte received leaves the read in `RECEIVING`, and is the final one when the stop has been issued. -/
theorem evI2cRxByte_eq {s : State} (v : Byte) (hphase : s.i2c.phase = .starting ∨ s.i2c.phase = .receiving)
    (hfinal : s.i2c.finalRx = false) :
    evI2cRxByte v s = { s with
      i2c := { s.i2c with rxbuf := v, rxifg := true, phase := .receiving, finalRx := s.i2c.stopping } } := by
  rcases hphase with hphase | hphase <;> simp [evI2cRxByte, hphase, hfinal]

/-- Settles O41: each event by its guard and, where the guard holds, its effect. -/
theorem i2cBusEvents : Obligations.I2cBusEvents := fun s =>
  ⟨step_env_eq (evI2cTxRdyEnabled_iff s) fun ⟨_, _, _, hphase, _⟩ => evI2cTxRdy_eq hphase,
   step_env_eq (evI2cNackEnabled_iff s) fun _ => rfl,
   fun v => step_env_eq (evI2cRxByteEnabled_iff s) fun ⟨_, _, _, hphase, _, _, hfinal, _⟩ =>
     evI2cRxByte_eq v hphase hfinal,
   step_env_eq (evI2cStopDoneEnabled_iff s) fun _ => rfl⟩

end Sys2Proof.Machine
end

section
/-!
PROOFS. The table of the I2C phases (41_i2c.md R85). What any move but reset can do to `i2c.phase` is one inversion,
`I2cPhaseStep`, with a constructor for each row of the table; it is proved agent by agent. The steps of the other engine
and of the host keep the whole of `i2c`, which is what is said of them.
-/

namespace Sys2Proof.Machine

/-- All that a move other than reset can do to the phase from a sound state: keep it, or take one row of the table of R85.
The row of `I2C_INIT` keeps it, since with no live operation the phase is already `IDLE` (10_state.md R34). -/
inductive I2cPhaseStep (s t : State) : Move → Prop where
  | keeps {m : Move} (h : t.i2c.phase = s.i2c.phase) : I2cPhaseStep s t m
  | writeIssued {w : Word} {stop : Bool} (hdecode : decode (.cmd32 w) = .ok (.i2cWrite stop))
      (hfrom : s.i2c.phase = .idle) (hto : t.i2c.phase = .starting) (hdir : t.i2c.dir = .tx) :
      I2cPhaseStep s t (commandMove w)
  | readIssued {w : Word} (hdecode : decode (.cmd32 w) = .ok .i2cRead)
      (hfrom : s.i2c.phase = .idle) (hto : t.i2c.phase = .starting) (hdir : t.i2c.dir = .rx) :
      I2cPhaseStep s t (commandMove w)
  | addressAcknowledged (hdir : s.i2c.dir = .tx) (hfrom : s.i2c.phase = .starting)
      (hto : t.i2c.phase = .transmitting) : I2cPhaseStep s t (.env .i2cTxRdy)
  | firstByteReceived {v : Byte} (hdir : s.i2c.dir = .rx) (hfrom : s.i2c.phase = .starting)
      (hto : t.i2c.phase = .receiving) : I2cPhaseStep s t (.env (.i2cRxByte v))
  | nackHandled (hfrom : s.i2c.phase = .starting ∨ s.i2c.phase = .transmitting) (hto : t.i2c.phase = .ackFailed) :
      I2cPhaseStep s t (.isr .i2cNack)
  | stopIssued (hfrom : s.i2c.phase = .transmitting ∨ s.i2c.phase = .ackFailed) (hdone : s.i2c.done = true)
      (hstop : s.i2c.sendStop = true) (hto : t.i2c.phase = .awaitingStop) : I2cPhaseStep s t (.seq .i2cWriteCont)
  | writeReturns (hfrom : s.i2c.phase = .transmitting ∨ s.i2c.phase = .ackFailed) (hdone : s.i2c.done = true)
      (hstop : s.i2c.sendStop = false) (hto : t.i2c.phase = .idle) : I2cPhaseStep s t (.seq .i2cWriteCont)
  | stopCompleted (hfrom : s.i2c.phase = .awaitingStop) (hstopping : s.i2c.stopping = false)
      (hto : t.i2c.phase = .idle) : I2cPhaseStep s t (.seq .i2cWriteFinish)
  | readReturns (hfrom : s.i2c.phase = .receiving ∨ s.i2c.phase = .ackFailed) (hdone : s.i2c.done = true)
      (hto : t.i2c.phase = .idle) : I2cPhaseStep s t (.seq .i2cReadFinish)

/-! ## The commands (30_encoding.md R64) -/

/-- A command keeps the I2C engine, or is taken with no operation live and has its effect. -/
theorem issue_i2c_cases {o : Opcode} {stop : Bool} {effect : State → Except FaultCode State} {s t : State}
    (h : issue o stop effect s = .next t) :
    t.i2c = s.i2c ∨ (s.op.opc = none ∧ effect (latchOp o stop s) = .ok t) := by
  rcases issue_cases h with ⟨_, rfl⟩ | ⟨_, _, rfl⟩ | ⟨_, _, f, _, rfl⟩ | ⟨_, _, _, f, _, rfl⟩ | ⟨_, hidle, _, hok⟩
  · exact .inl rfl
  · exact .inl (raiseFault_i2c _ s)
  · exact .inl (raiseFault_i2c f s)
  · exact .inl (raiseFault_i2c f s)
  · exact .inr ⟨hidle, hok⟩

/-- A command's issue effect never touches the I2C engine. -/
def EffectKeepsI2c (effect : State → Except FaultCode State) : Prop :=
  ∀ u v, effect u = .ok v → v.i2c = u.i2c

theorem issue_keepsI2c {o : Opcode} {stop : Bool} {effect : State → Except FaultCode State} {s t : State}
    (heff : EffectKeepsI2c effect) (h : issue o stop effect s = .next t) : t.i2c = s.i2c := by
  rcases issue_i2c_cases h with hkept | ⟨_, hok⟩
  · exact hkept
  · exact heff (latchOp o stop s) t hok

theorem effectKeepsI2c_of_ok {f : State → State} (hf : ∀ u, (f u).i2c = u.i2c) :
    EffectKeepsI2c (fun u => .ok (f u)) := by
  intro u v h
  cases h
  exact hf u

@[simp] theorem spiInitState_i2c (s : State) : (spiInitState s).i2c = s.i2c := by simp [spiInitState]

theorem bindTx_keepsI2c : EffectKeepsI2c bindTx := by
  intro u v h
  unfold bindTx at h
  split at h <;> cases h
  rfl

theorem bindRx_keepsI2c : EffectKeepsI2c bindRx := by
  intro u v h
  unfold bindRx at h
  split at h <;> cases h
  rfl

theorem spiInit_keepsI2c : EffectKeepsI2c spiInit := effectKeepsI2c_of_ok spiInitState_i2c
theorem spiWrite_keepsI2c : EffectKeepsI2c spiWrite := effectKeepsI2c_of_ok fun _ => rfl
theorem spiRead_keepsI2c : EffectKeepsI2c spiRead := effectKeepsI2c_of_ok fun _ => rfl
theorem spiBusyQuery_keepsI2c : EffectKeepsI2c spiBusyQuery := effectKeepsI2c_of_ok fun _ => rfl
theorem spiCsLow_keepsI2c : EffectKeepsI2c spiCsLow := effectKeepsI2c_of_ok csLow_i2c
theorem spiCsHigh_keepsI2c : EffectKeepsI2c spiCsHigh := effectKeepsI2c_of_ok fun _ => rfl
theorem flashInit_keepsI2c : EffectKeepsI2c flashInit := effectKeepsI2c_of_ok spiInitState_i2c
theorem flashReadId_keepsI2c : EffectKeepsI2c flashReadId := effectKeepsI2c_of_ok fun _ => rfl
theorem flashRead_keepsI2c : EffectKeepsI2c flashRead := effectKeepsI2c_of_ok fun _ => rfl
theorem flashWrite_keepsI2c : EffectKeepsI2c flashWrite := effectKeepsI2c_of_ok fun _ => rfl
theorem flashBusy_keepsI2c : EffectKeepsI2c flashBusy := effectKeepsI2c_of_ok fun _ => rfl

theorem exec_frame_keepsI2c {c : FrameCmd} {l : List Byte} {s t : State} (h : exec (c.instr l) s = .next t) :
    t.i2c = s.i2c := by
  rw [exec_frame] at h
  cases h
  exact runFrame_i2c c l s

/-- Which I2C command an instruction is, and the phase and direction it leaves when it is taken (R86, R87, R92). -/
inductive I2cCommandTaken (t : State) : Instr → Prop where
  | init (hphase : t.i2c.phase = .idle) : I2cCommandTaken t .i2cInit
  | write {stop : Bool} (hphase : t.i2c.phase = .starting) (hdir : t.i2c.dir = .tx) : I2cCommandTaken t (.i2cWrite stop)
  | read (hphase : t.i2c.phase = .starting) (hdir : t.i2c.dir = .rx) : I2cCommandTaken t .i2cRead

/-- An instruction keeps the I2C engine, or is an I2C command taken with no operation live. -/
theorem exec_i2c_cases {i : Instr} {s t : State} (h : exec i s = .next t) :
    t.i2c = s.i2c ∨ (s.op.opc = none ∧ I2cCommandTaken t i) := by
  cases i with
  | i2cInit =>
    refine (issue_i2c_cases (exec_i2cInit s ▸ h)).imp_right (And.imp_right fun hok => ?_)
    cases hok
    exact .init rfl
  | i2cWrite stop =>
    refine (issue_i2c_cases (exec_i2cWrite stop s ▸ h)).imp_right (And.imp_right fun hok => ?_)
    cases hok
    exact .write rfl rfl
  | i2cRead =>
    refine (issue_i2c_cases (exec_i2cRead s ▸ h)).imp_right (And.imp_right fun hok => ?_)
    cases hok
    exact .read rfl rfl
  | bindTx => exact .inl (issue_keepsI2c bindTx_keepsI2c (exec_bindTx s ▸ h))
  | bindRx => exact .inl (issue_keepsI2c bindRx_keepsI2c (exec_bindRx s ▸ h))
  | spiInit => exact .inl (issue_keepsI2c spiInit_keepsI2c (exec_spiInit s ▸ h))
  | spiWrite => exact .inl (issue_keepsI2c spiWrite_keepsI2c (exec_spiWrite s ▸ h))
  | spiRead => exact .inl (issue_keepsI2c spiRead_keepsI2c (exec_spiRead s ▸ h))
  | spiBusy => exact .inl (issue_keepsI2c spiBusyQuery_keepsI2c (exec_spiBusy s ▸ h))
  | spiCsLow => exact .inl (issue_keepsI2c spiCsLow_keepsI2c (exec_spiCsLow s ▸ h))
  | spiCsHigh => exact .inl (issue_keepsI2c spiCsHigh_keepsI2c (exec_spiCsHigh s ▸ h))
  | flashInit => exact .inl (issue_keepsI2c flashInit_keepsI2c (exec_flashInit s ▸ h))
  | flashReadId => exact .inl (issue_keepsI2c flashReadId_keepsI2c (exec_flashReadId s ▸ h))
  | flashRead => exact .inl (issue_keepsI2c flashRead_keepsI2c (exec_flashRead s ▸ h))
  | flashWrite => exact .inl (issue_keepsI2c flashWrite_keepsI2c (exec_flashWrite s ▸ h))
  | flashBusy => exact .inl (issue_keepsI2c flashBusy_keepsI2c (exec_flashBusy s ▸ h))
  | frameReadId l => exact .inl (exec_frame_keepsI2c (c := .readId) h)
  | frameRead l => exact .inl (exec_frame_keepsI2c (c := .read) h)
  | frameWriteEnable l => exact .inl (exec_frame_keepsI2c (c := .writeEnable) h)
  | frameSectorErase l => exact .inl (exec_frame_keepsI2c (c := .sectorErase) h)
  | framePageProgram l => exact .inl (exec_frame_keepsI2c (c := .pageProgram) h)
  | frameReadStatus l => exact .inl (exec_frame_keepsI2c (c := .readStatus) h)

/-! ## The host -/

@[simp] theorem faultingAccess_i2c (d : Dir) (s : State) : (faultingAccess d s).i2c = s.i2c := by
  cases d <;> simp [faultingAccess]

@[simp] theorem windowAccess_i2c (a : HostAccess) (i : Nat) (s : State) : (windowAccess a i s).i2c = s.i2c := by
  unfold windowAccess
  split
  · exact faultingAccess_i2c a.dir s
  · split <;> rfl

/-- A write to `CMD` keeps the I2C engine, or executes the instruction of its word. -/
theorem writeCmd_i2c_cases {w : Word} {s t : State} (h : writeCmd w s = .next t) :
    t.i2c = s.i2c ∨ ∃ i, decode (.cmd32 w) = .ok i ∧ exec i s = .next t := by
  unfold writeCmd at h
  split at h
  · cases h
    exact .inl rfl
  · split at h
    · cases h
      exact .inl (raiseFault_i2c _ s)
    · exact .inr ⟨_, ‹_›, h⟩

theorem regWrite?_i2c_cases {off : Nat} {w : Word} {s t : State} (h : regWrite? off w s = some (.next t)) :
    t.i2c = s.i2c ∨ (off = 0x000 ∧ writeCmd w s = .next t) := by
  unfold regWrite? at h
  split at h
  · exact .inr ⟨‹_›, Option.some.inj h⟩
  · repeat' split at h
    all_goals cases h
    all_goals exact .inl rfl

theorem regAccess_i2c_cases {a : HostAccess} {s t : State} (h : regAccess a s = .next t) :
    t.i2c = s.i2c ∨ (Move.host a = commandMove a.data ∧ writeCmd a.data s = .next t) := by
  obtain ⟨dir, bits, off, data⟩ := a
  unfold regAccess at h
  split at h
  · cases h
    exact .inl (faultingAccess_i2c _ s)
  · rename_i hbits
    obtain rfl : bits = 32 := not_not.1 hbits
    cases dir with
    | read =>
      simp only at h
      split at h <;> cases h
      · exact .inl rfl
      · exact .inl (faultingAccess_i2c _ s)
    | write =>
      simp only at h
      split at h
      · subst h
        rcases regWrite?_i2c_cases ‹_› with hkept | ⟨rfl, hcmd⟩
        · exact .inl hkept
        · exact .inr ⟨rfl, hcmd⟩
      · cases h
        exact .inl (faultingAccess_i2c _ s)

/-- A host access keeps the I2C engine, or is a write of a command word. -/
theorem hostAccess_i2c_cases {a : HostAccess} {s t : State} (h : hostAccess a s = .next t) :
    t.i2c = s.i2c ∨ ∃ i, Move.host a = commandMove a.data ∧ decode (.cmd32 a.data) = .ok i ∧ exec i s = .next t := by
  unfold hostAccess at h
  split at h
  · rcases regAccess_i2c_cases h with hkept | ⟨hmove, hcmd⟩
    · exact .inl hkept
    · exact (writeCmd_i2c_cases hcmd).imp_right fun ⟨i, hdecode, hexec⟩ => ⟨i, hmove, hdecode, hexec⟩
  · split at h <;> cases h
    exact .inl (windowAccess_i2c a _ s)

theorem hostAccess_i2cPhaseStep {a : HostAccess} {s t : State} (hs : Sound s) (h : hostAccess a s = .next t) :
    I2cPhaseStep s t (.host a) := by
  rcases hostAccess_i2c_cases h with hkept | ⟨i, hmove, hdecode, hexec⟩
  · exact .keeps (congrArg I2cState.phase hkept)
  rcases exec_i2c_cases hexec with hkept | ⟨hnone, htaken⟩
  · exact .keeps (congrArg I2cState.phase hkept)
  obtain ⟨hidle, _, _⟩ := hs.operation.idle hnone
  rw [hmove]
  cases htaken with
  | init hphase => exact .keeps (hphase.trans hidle.symm)
  | write hphase hdir => exact .writeIssued hdecode hidle hphase hdir
  | read hphase hdir => exact .readIssued hdecode hidle hphase hdir

/-! ## The handlers -/

theorem i2cTxHandler_phase {s t : State} (h : i2cTxHandler s = .next t) : t.i2c.phase = s.i2c.phase := by
  unfold i2cTxHandler at h
  repeat' split at h
  all_goals cases h
  all_goals rfl

theorem i2cRxHandler_phase {s t : State} (h : i2cRxHandler s = .next t) : t.i2c.phase = s.i2c.phase := by
  unfold i2cRxHandler at h
  repeat' split at h
  all_goals cases h
  all_goals rfl

theorem spiTxHandler_i2c {s t : State} (h : spiTxHandler s = .next t) : t.i2c = s.i2c := by
  unfold spiTxHandler at h
  repeat' split at h
  all_goals cases h
  all_goals rfl

theorem dstWrite_i2c {m : SpiMem} {i : Nat} {v : Byte} {s t : State} (h : dstWrite m i v s = .ok t) :
    t.i2c = s.i2c := by
  obtain ⟨_, ⟨_, rfl⟩ | ⟨_, g, _, rfl⟩ | ⟨_, rfl⟩⟩ := dstWrite_ok h <;> rfl

theorem spiRxHandler_i2c {s t : State} (h : spiRxHandler s = .next t) : t.i2c = s.i2c := by
  unfold spiRxHandler at h
  split at h
  · cases h
  · have hkept := dstWrite_i2c ‹_›
    split at h <;> cases h <;> exact hkept

/-- The handlers of R88, R93, R107 and R108 keep the phase; that of R89 is dispatched for a pending NACK alone, which a
sound state has only in the two phases of its row. -/
theorem dispatchIsr_i2cPhaseStep {src : Source} {s t : State} (hs : Sound s) (hen : isrEnabled src s = true)
    (h : dispatchIsr src s = .next t) : I2cPhaseStep s t (.isr src) := by
  unfold dispatchIsr at h
  split at h
  · cases src with
    | i2cTx => exact .keeps (i2cTxHandler_phase h)
    | i2cRx => exact .keeps (i2cRxHandler_phase h)
    | i2cNack =>
      have hpending : s.i2c.nackifg = true := by
        simp only [isrEnabled, sourcePending, Bool.and_eq_true] at hen
        obtain ⟨⟨_, hflag, _⟩, _⟩ := hen
        exact hflag
      obtain ⟨hphase, _⟩ := hs.i2c.nackPending hpending
      cases h
      exact .nackHandled hphase rfl
    | spiTx => exact .keeps (congrArg I2cState.phase (spiTxHandler_i2c h))
    | spiRx => exact .keeps (congrArg I2cState.phase (spiRxHandler_i2c h))
  · cases h
    exact .keeps (congrArg I2cState.phase (raiseFault_i2c _ s))

/-! ## The sequencer -/

theorem i2cWriteContEnabled_iff (s : State) :
    i2cWriteContEnabled s = true ↔ s.op.opc = some .i2cWrite ∧ s.i2c.done = true ∧
      (s.i2c.phase = .transmitting ∨ s.i2c.phase = .ackFailed) ∧ s.fault = false := by
  simp [i2cWriteContEnabled, and_assoc]

theorem i2cWriteFinishEnabled_iff (s : State) :
    i2cWriteFinishEnabled s = true ↔ s.op.opc = some .i2cWrite ∧ s.i2c.phase = .awaitingStop ∧
      s.i2c.stopping = false ∧ s.fault = false := by
  simp [i2cWriteFinishEnabled, and_assoc]

theorem i2cReadFinishEnabled_iff (s : State) :
    i2cReadFinishEnabled s = true ↔ s.op.opc = some .i2cRead ∧ s.i2c.done = true ∧
      (s.i2c.phase = .receiving ∨ s.i2c.phase = .ackFailed) ∧ s.fault = false := by
  simp [i2cReadFinishEnabled, and_assoc]

theorem i2cWriteCont_stop {s : State} (h : s.i2c.sendStop = true) :
    i2cWriteCont s = { s with i2c := { s.i2c with stopping := true, phase := .awaitingStop } } := by
  simp [i2cWriteCont, h]

theorem i2cWriteCont_return {s : State} (h : s.i2c.sendStop = false) : i2cWriteCont s = i2cWriteReturns s := by
  simp [i2cWriteCont, h]

@[simp] theorem spiGo_i2c (s : State) : (spiGo s).i2c = s.i2c := by
  unfold spiGo
  split <;> rfl

@[simp] theorem spiFinish_i2c (s : State) : (spiFinish s).i2c = s.i2c := by
  unfold spiFinish
  split <;> rfl

theorem runAction?_i2c {a : Action} {s t : State} (h : runAction? a s = some t) : t.i2c = s.i2c := by
  cases a <;> simp only [runAction?, actionStart?] at h
  case csl =>
    cases h
    exact csLow_i2c _
  case csh =>
    split at h <;> cases h
    exact csHigh_i2c _
  case delay => cases h
  all_goals
    repeat' split at h
    all_goals cases h
    all_goals rfl

theorem flashStep?_i2c {s t : State} (h : flashStep? s = some t) : t.i2c = s.i2c := by
  unfold flashStep? at h
  split at h
  · split at h
    · cases h
    · exact runAction?_i2c h
  · cases h

theorem runSeq_i2cPhaseStep {k : SeqStep} {s : State} (hen : seqEnabled k s = true) :
    I2cPhaseStep s (runSeq k s) (.seq k) := by
  cases k with
  | i2cWriteCont =>
    obtain ⟨_, hdone, hphase, _⟩ := (i2cWriteContEnabled_iff s).1 hen
    cases hstop : s.i2c.sendStop with
    | true => exact .stopIssued hphase hdone hstop (by rw [runSeq, i2cWriteCont_stop hstop])
    | false => exact .writeReturns hphase hdone hstop (by rw [runSeq, i2cWriteCont_return hstop]; rfl)
  | i2cWriteFinish =>
    obtain ⟨_, hphase, hstopping, _⟩ := (i2cWriteFinishEnabled_iff s).1 hen
    exact .stopCompleted hphase hstopping rfl
  | i2cReadFinish =>
    obtain ⟨_, hdone, hphase, _⟩ := (i2cReadFinishEnabled_iff s).1 hen
    exact .readReturns hphase hdone rfl
  | spiGo => exact .keeps (congrArg I2cState.phase (spiGo_i2c s))
  | spiFinish => exact .keeps (congrArg I2cState.phase (spiFinish_i2c s))
  | csHighFinish => exact .keeps (congrArg I2cState.phase (csHigh_i2c (finishOp s)))
  | flashStep =>
    obtain ⟨u, hu⟩ := Option.isSome_iff_exists.1 hen
    refine .keeps (congrArg I2cState.phase ?_)
    simpa [runSeq, hu] using flashStep?_i2c hu
  | flashFinish => exact .keeps rfl

/-! ## The environment -/

theorem runEnv_i2cPhaseStep {e : EnvEvent} {s : State} (hen : envEnabled e s = true) :
    I2cPhaseStep s (runEnv e s) (.env e) := by
  cases e with
  | i2cTxRdy =>
    obtain ⟨_, _, hdir, hphase, _⟩ := (evI2cTxRdyEnabled_iff s).1 hen
    rw [runEnv, evI2cTxRdy_eq hphase]
    rcases hphase with hstarting | htransmitting
    · exact .addressAcknowledged hdir hstarting rfl
    · exact .keeps htransmitting.symm
  | i2cRxByte v =>
    obtain ⟨_, _, hdir, hphase, _, _, hfinal, _⟩ := (evI2cRxByteEnabled_iff s).1 hen
    rw [runEnv, evI2cRxByte_eq v hphase hfinal]
    rcases hphase with hstarting | hreceiving
    · exact .firstByteReceived hdir hstarting rfl
    · exact .keeps hreceiving.symm
  | spiShiftDone line => exact .keeps (congrArg I2cState.phase (chipShift_i2c _))
  | i2cNack | i2cStopDone | spiLoad | eraseDelay | flashReady | flashPowerCycle => exact .keeps rfl

/-! ## Every move -/

theorem runMove_i2cPhaseStep {m : Move} {s t : State} (hs : Sound s) (hm : m ≠ .reset)
    (hen : moveEnabled m s = true) (h : runMove m s = .next t) : I2cPhaseStep s t m := by
  cases m with
  | host a => exact hostAccess_i2cPhaseStep hs h
  | seq k =>
    cases h
    exact runSeq_i2cPhaseStep hen
  | isr src => exact dispatchIsr_i2cPhaseStep hs hen h
  | env e =>
    cases h
    exact runEnv_i2cPhaseStep hen
  | reset => exact absurd rfl hm

/-- What a step other than reset does to the I2C phase. -/
theorem step_i2cPhaseStep {m : Move} {s t : State} (hs : Sound s) (hm : m ≠ .reset)
    (h : step (s.queued m) = .next t) : I2cPhaseStep s t m := by
  rw [step_queued] at h
  obtain ⟨_, rfl⟩ | ⟨hen, hrun⟩ := performMove_cases h
  · exact .keeps rfl
  · exact runMove_i2cPhaseStep hs hm hen hrun

/-- Settles O51: every move but reset is an `I2cPhaseStep`, whose constructors are the rows of the table. -/
theorem i2cPhaseFollowsItsTable : Obligations.I2cPhaseFollowsItsTable := by
  intro m s t hs h hm hchanged
  cases step_i2cPhaseStep hs hm h with
  | keeps hkept => exact absurd hkept hchanged
  | writeIssued hdecode hfrom hto hdir => exact .inl ⟨_, _, rfl, hdecode, hfrom, hto, hdir⟩
  | readIssued hdecode hfrom hto hdir => exact .inr (.inl ⟨_, rfl, hdecode, hfrom, hto, hdir⟩)
  | addressAcknowledged hdir hfrom hto => exact .inr (.inr (.inl ⟨rfl, hdir, hfrom, hto⟩))
  | firstByteReceived hdir hfrom hto => exact .inr (.inr (.inr (.inl ⟨_, rfl, hdir, hfrom, hto⟩)))
  | nackHandled hfrom hto => exact .inr (.inr (.inr (.inr (.inl ⟨rfl, hfrom, hto⟩))))
  | stopIssued hfrom hdone hstop hto => exact .inr (.inr (.inr (.inr (.inr (.inl ⟨rfl, hfrom, hdone, hstop, hto⟩)))))
  | writeReturns hfrom hdone hstop hto =>
    exact .inr (.inr (.inr (.inr (.inr (.inr (.inl ⟨rfl, hfrom, hdone, hstop, hto⟩))))))
  | stopCompleted hfrom hstopping hto =>
    exact .inr (.inr (.inr (.inr (.inr (.inr (.inr (.inl ⟨rfl, hfrom, hstopping, hto⟩)))))))
  | readReturns hfrom hdone hto =>
    exact .inr (.inr (.inr (.inr (.inr (.inr (.inr (.inr ⟨rfl, hfrom, hdone, hto⟩)))))))

end Sys2Proof.Machine
end

section
/-!
PROOFS. The issue of the four flash commands that stay live (43_flash.md R117, R123). What R117's programs and R123's
header bytes are is said by equations; each command is then its issue check, which ownership and the operands in range
pass, and its effect on the latched operands.
-/

namespace Sys2Proof.Machine

/-! ## The programs and the header (43_flash.md R117, R123) -/

theorem readIdProgram_eq (b : Half) : readIdProgram b = [.csl, .txc 0x9F 1, .rxb b 3, .csh] := rfl

theorem readProgram_eq (b n : Half) : readProgram b n = [.csl, .txc 0x03 4, .rxb b n, .csh] := rfl

theorem writeProgram_eq (b n : Half) :
    writeProgram b n =
      [.csl, .txc 0x06 1, .csh, .csl, .txc 0xD8 4, .csh, .delay, .csl, .txc 0x06 1, .csh,
       .csl, .txc 0x02 4, .txb b n, .csh] := rfl

theorem busyProgram_eq : busyProgram = [.csl, .txc 0x05 1, .rxs, .csh] := rfl

theorem setHeaderAddr_eq (a : FlashAddr) (s : State) :
    setHeaderAddr a s = { s with
      fl := { s.fl with
        hdr := { b0 := s.fl.hdr.b0, b1 := a.extractLsb' 16 8, b2 := a.extractLsb' 8 8, b3 := a.extractLsb' 0 8 } } } :=
  rfl

/-- The operands that an issue latches. -/
theorem latchOp_eq (o : Opcode) (stop : Bool) (s : State) : latchOp o stop s = { s with op := latched s o stop } := rfl

/-! ## The commands taken (43_flash.md R125 to R128) -/

/-- A command at an engine that takes one has its effect, once its issue check passes. -/
theorem issue_taken {o : Opcode} {stop : Bool} {effect : State → Except FaultCode State} {s t : State}
    (hready : ready s) (hcheck : issueCheck o s = none) (heffect : effect (latchOp o stop s) = .ok t) :
    issue o stop effect s = .next t := by
  obtain ⟨hclear, hidle⟩ := hready
  exact issue_accepts hclear hidle hcheck heffect

theorem owns_of_arb {e : Engine} {s : State} (h : s.arb = { mode := e, tx := some e, rx := some e }) :
    owns e s = true := by
  rw [owns_iff, h]
  exact ⟨rfl, rfl, rfl⟩

theorem exec_flashReadId_taken {s : State} (hready : ready s) (howns : owns .spi s = true)
    (hrange : s.reg.buf.toNat + 3 ≤ s.par.bufBytes) :
    exec .flashReadId s = .next (loadProgram (readIdProgram s.reg.buf) (latchOp .flashReadId false s)) :=
  (exec_flashReadId s).trans (issue_taken hready ((issueCheck_flashReadId s).2 ⟨howns, hrange⟩) rfl)

theorem exec_flashRead_taken {s : State} (hready : ready s) (howns : owns .spi s = true) (hlen : s.reg.len ≠ 0)
    (hrange : s.reg.buf.toNat + s.reg.len.toNat ≤ s.par.bufBytes) :
    exec .flashRead s = .next
      (loadProgram (readProgram s.reg.buf s.reg.len) (setHeaderAddr s.reg.addr (latchOp .flashRead false s))) :=
  (exec_flashRead s).trans (issue_taken hready ((issueCheck_flashRead s).2 ⟨howns, hlen, hrange⟩) rfl)

theorem exec_flashWrite_taken {s : State} (hready : ready s) (howns : owns .spi s = true)
    (hrange : s.reg.buf.toNat + s.reg.len.toNat ≤ s.par.bufBytes) :
    exec .flashWrite s = .next
      (loadProgram (writeProgram s.reg.buf s.reg.len) (setHeaderAddr s.reg.addr (latchOp .flashWrite false s))) :=
  (exec_flashWrite s).trans (issue_taken hready ((issueCheck_flashWrite s).2 ⟨howns, hrange⟩) rfl)

theorem exec_flashBusy_taken {s : State} (hready : ready s) (howns : owns .spi s = true) :
    exec .flashBusy s = .next (loadProgram busyProgram (latchOp .flashBusy false s)) :=
  (exec_flashBusy s).trans (issue_taken hready ((issueCheck_flashBusy s).2 howns) rfl)

/-- Settles O15: each command passes its issue check, and its effect on the latched operands loads its program. -/
theorem flashCommandsLoadTheirPrograms : Obligations.FlashCommandsLoadTheirPrograms := by
  intro s hready harb
  have howns : owns .spi s = true := owns_of_arb harb
  refine ⟨fun hrange => ?readId, fun hlen hrange => ?read, fun hrange => ?write, ?busy⟩
  case readId => rw [exec_flashReadId_taken hready howns hrange, readIdProgram_eq, loadProgram, latchOp_eq]
  case read =>
    rw [exec_flashRead_taken hready howns hlen hrange, readProgram_eq, setHeaderAddr_eq, loadProgram, latchOp_eq]
  case write =>
    rw [exec_flashWrite_taken hready howns hrange, writeProgram_eq, setHeaderAddr_eq, loadProgram, latchOp_eq]
  case busy => rw [exec_flashBusy_taken hready howns, busyProgram_eq, loadProgram, latchOp_eq]

end Sys2Proof.Machine
end

section
/-!
PROOFS. The faults of the host interface (60_exceptions.md R136, R140, R141, R142). A word that decodes is a command, and
every command is an `issue`, so what `issue` and `issueCheck` turn away is said once for all commands; a faulting access
is one `faultingAccess`, in the registers' range and in the window.
-/

namespace Sys2Proof.Machine

/-! ## A legal word written to `CMD` (30_encoding.md R60, R64, R65) -/

/-- A word that decodes names an opcode, has its reserved bits 0, and has the instruction of its opcode and STOP bit. -/
theorem decode_cmd32_ok {w : Word} {i : Instr} (h : decode (.cmd32 w) = .ok i) :
    ∃ p, opcodeOf? (cmdOpcode w) = some p ∧ cmdReserved w = 0 ∧ p.instr? (cmdStop w) = some i := by
  change decodeCmd w = .ok i at h
  unfold decodeCmd at h
  split at h
  · cases h
  · rename_i p hopcode
    split at h
    · cases h
    · rename_i hreserved
      split at h
      · cases h
      · rename_i j hinstr
        cases h
        exact ⟨p, hopcode, not_not.1 hreserved, hinstr⟩

/-- The instruction of an opcode is a command: its execution is an issue. -/
theorem exec_eq_issue {p : Opcode} {stop : Bool} {i : Instr} (h : p.instr? stop = some i) :
    ∃ effect, ∀ s, exec i s = issue p stop effect s := by
  cases stop with
  | true =>
    cases p with
    | i2cWrite =>
      cases h
      exact ⟨_, exec_i2cWrite true⟩
    | _ => cases h
  | false =>
    cases p with
    | bindTx => exact ⟨_, Option.some.inj h ▸ exec_bindTx⟩
    | bindRx => exact ⟨_, Option.some.inj h ▸ exec_bindRx⟩
    | i2cInit => exact ⟨_, Option.some.inj h ▸ exec_i2cInit⟩
    | i2cWrite => exact ⟨_, Option.some.inj h ▸ exec_i2cWrite false⟩
    | i2cRead => exact ⟨_, Option.some.inj h ▸ exec_i2cRead⟩
    | spiInit => exact ⟨_, Option.some.inj h ▸ exec_spiInit⟩
    | spiWrite => exact ⟨_, Option.some.inj h ▸ exec_spiWrite⟩
    | spiRead => exact ⟨_, Option.some.inj h ▸ exec_spiRead⟩
    | spiBusy => exact ⟨_, Option.some.inj h ▸ exec_spiBusy⟩
    | spiCsLow => exact ⟨_, Option.some.inj h ▸ exec_spiCsLow⟩
    | spiCsHigh => exact ⟨_, Option.some.inj h ▸ exec_spiCsHigh⟩
    | flashInit => exact ⟨_, Option.some.inj h ▸ exec_flashInit⟩
    | flashReadId => exact ⟨_, Option.some.inj h ▸ exec_flashReadId⟩
    | flashRead => exact ⟨_, Option.some.inj h ▸ exec_flashRead⟩
    | flashWrite => exact ⟨_, Option.some.inj h ▸ exec_flashWrite⟩
    | flashBusy => exact ⟨_, Option.some.inj h ▸ exec_flashBusy⟩

theorem step_commandMove (w : Word) (s : State) : step (s.queued (commandMove w)) = writeCmd w s := rfl

theorem writeCmd_legal {w : Word} {i : Instr} {s : State} (hclear : s.fault = false)
    (hdecode : decode (.cmd32 w) = .ok i) : writeCmd w s = exec i s := by
  simp [writeCmd, hclear, hdecode]

/-- A command at an engine with a live operation is turned away before its own checks (R136, R151). -/
theorem issue_busy {o : Opcode} {s : State} (hclear : s.fault = false) (hlive : s.op.opc ≠ none) (stop : Bool)
    (effect : State → Except FaultCode State) : issue o stop effect s = .next (faulted s 2) := by
  have hsome : s.op.opc.isSome = true := Option.isSome_iff_ne_none.2 hlive
  simp [issue, hclear, hsome, raiseFault_of_clear hclear, faultNumber]

/-- Settles O16: the word's instruction is a command, and its issue finds the live operation. -/
theorem commandWhileLiveFaults : Obligations.CommandWhileLiveFaults := by
  intro s w i hdecode hclear hlive
  obtain ⟨p, _, _, hinstr⟩ := decode_cmd32_ok hdecode
  obtain ⟨effect, hexec⟩ := exec_eq_issue hinstr
  calc step (s.queued (commandMove w))
    _ = exec i s := (step_commandMove w s).trans (writeCmd_legal hclear hdecode)
    _ = issue p (cmdStop w) effect s := hexec s
    _ = .next (faulted s 2) := issue_busy hclear hlive _ _

/-! ## The checks on bus activity (60_exceptions.md R134, R140, R141) -/

theorem issueCheck_stopPending {o : Opcode} {s : State} (hneeds : needsI2c o = true) (howns : owns .i2c s = true)
    (hstopping : s.i2c.stopping = true) : issueCheck o s = some .stopPending := by
  have htransfer : o = .i2cWrite ∨ o = .i2cRead := by simpa [needsI2c] using hneeds
  rcases htransfer with rfl | rfl <;> simp [issueCheck, needsI2c, needsSpi, isInit, howns, hstopping]

theorem issueCheck_busActive {o : Opcode} {s : State} (hinit : isInit o = true)
    (hactive : s.i2c.stopping = true ∨ spiBusy s = true) : issueCheck o s = some .busActive := by
  have hcommand : o = .i2cInit ∨ o = .spiInit ∨ o = .flashInit := by simpa [isInit] using hinit
  rcases hcommand with rfl | rfl | rfl <;> simp [issueCheck, needsI2c, needsSpi, isInit, hactive]

theorem spiBusy_iff (s : State) : spiBusy s = true ↔ s.spi.txFull = true ∨ s.spi.shifting = true := by
  simp [spiBusy]

/-- Settles O20: both transfers own the bus, and the stop is checked before LENGTH and RANGE. -/
theorem transferBeforeStopFaults : Obligations.TransferBeforeStopFaults := by
  intro s hready harb hstopping
  have turnedAway {o : Opcode} (hneeds : needsI2c o = true) :=
    issue_turnedAway hready (issueCheck_stopPending hneeds (owns_of_arb harb) hstopping)
  exact ⟨fun stop => (exec_i2cWrite stop s).trans (turnedAway rfl _ _), (exec_i2cRead s).trans (turnedAway rfl _ _)⟩

/-- Settles O21: the check on bus activity is the only one an init makes. -/
theorem initIntoBusActivityFaults : Obligations.InitIntoBusActivityFaults := by
  intro s hready hactive
  have turnedAway {o : Opcode} (hinit : isInit o = true) :=
    issue_turnedAway hready (issueCheck_busActive hinit (hactive.imp_right (spiBusy_iff s).2))
  exact ⟨(exec_i2cInit s).trans (turnedAway rfl _ _), (exec_spiInit s).trans (turnedAway rfl _ _),
    (exec_flashInit s).trans (turnedAway rfl _ _)⟩

/-! ## Host accesses (20_memory.md R37, R38, 60_exceptions.md R142) -/

/-- The six register offsets (20_memory.md R43). -/
def regOffsets : List Nat := [0x000, 0x004, 0x008, 0x00C, 0x010, 0x014]

theorem not_mem_regOffsets_iff (off : Nat) :
    off ∉ regOffsets ↔ off ≠ 0x000 ∧ off ≠ 0x004 ∧ off ≠ 0x008 ∧ off ≠ 0x00C ∧ off ≠ 0x010 ∧ off ≠ 0x014 := by
  simp [regOffsets]

theorem regRead?_unmapped {off : Nat} (h : off ∉ regOffsets) (s : State) : regRead? off s = none := by
  obtain ⟨hcmd, hbuf, hlen, haddr, hstatus, hslave⟩ := (not_mem_regOffsets_iff off).1 h
  simp [regRead?, hcmd, hbuf, hlen, haddr, hstatus, hslave]

theorem regWrite?_unmapped {off : Nat} (h : off ∉ regOffsets) (w : Word) (s : State) : regWrite? off w s = none := by
  obtain ⟨hcmd, hbuf, hlen, haddr, hstatus, hslave⟩ := (not_mem_regOffsets_iff off).1 h
  simp [regWrite?, hcmd, hbuf, hlen, haddr, hstatus, hslave]

theorem regAccess_faulting {a : HostAccess} (h : a.bits ≠ 32 ∨ a.off ∉ regOffsets) (s : State) :
    regAccess a s = .next (faultingAccess a.dir s) := by
  by_cases hbits : a.bits = 32
  · have hoff : a.off ∉ regOffsets := h.resolve_left (not_not.2 hbits)
    cases hdir : a.dir with
    | read => simp [regAccess, hbits, hdir, regRead?_unmapped hoff]
    | write => simp [regAccess, hbits, hdir, regWrite?_unmapped hoff]
  · simp [regAccess, hbits]

theorem windowAccess_faulting {a : HostAccess} {s : State} (h : a.bits ≠ 8 ∨ s.op.opc ≠ none) (i : Nat) :
    windowAccess a i s = faultingAccess a.dir s :=
  if_pos (h.imp_right Option.isSome_iff_ne_none.2)

theorem hostAccess_registers {a : HostAccess} (h : a.off < windowBase) (s : State) : hostAccess a s = regAccess a s :=
  if_pos h

theorem hostAccess_window {a : HostAccess} {s : State} (hlow : windowBase ≤ a.off)
    (hhigh : a.off < windowBase + s.par.bufBytes) :
    hostAccess a s = .next (windowAccess a (a.off - windowBase) s) := by
  simp [hostAccess, Nat.not_lt.2 hlow, hhigh]

theorem step_host (a : HostAccess) (s : State) : step (s.queued (.host a)) = hostAccess a s := rfl

theorem faultingAccess_read {s : State} (hclear : s.fault = false) :
    faultingAccess .read s = { faulted s 8 with rdata := some 0 } :=
  congrArg (answerHost 0) (raiseFault_of_clear hclear)

theorem faultingAccess_write {s : State} (hclear : s.fault = false) : faultingAccess .write s = faulted s 8 :=
  raiseFault_of_clear hclear

/-- Settles O46: in either range the access is a `faultingAccess`. -/
theorem otherHostAccessesFault : Obligations.OtherHostAccessesFault := by
  intro s a hclear hbad
  have hfaulting : step (s.queued (.host a)) = .next (faultingAccess a.dir s) := by
    rw [step_host]
    rcases hbad with ⟨hlow, hbad⟩ | ⟨hlow, hhigh, hbad⟩
    · rw [hostAccess_registers hlow, regAccess_faulting hbad]
    · rw [hostAccess_window hlow hhigh, windowAccess_faulting hbad]
  refine ⟨fun hread => ?_, fun hwrite => ?_⟩
  · rw [hfaulting, hread, faultingAccess_read hclear]
  · rw [hfaulting, hwrite, faultingAccess_write hclear]

end Sys2Proof.Machine
end

section
/-!
PROOFS. Decoding and encoding (30_encoding.md R60, R63, R65, R66). Every instruction is the command of an opcode and a STOP
bit, or a frame of a command byte and a tail; a code of each kind is taken apart and put together again, and both
directions of the agreement follow from that.
-/

namespace Sys2Proof.Machine

/-! ## The two kinds of instruction -/

/-- An instruction is a command word's, or a frame's. -/
theorem command_or_frame (i : Instr) :
    (∃ p stop, Opcode.instr? p stop = some i) ∨ ∃ c tail, i = FrameCmd.instr c tail := by
  cases i with
  | bindTx => exact .inl ⟨.bindTx, false, rfl⟩
  | bindRx => exact .inl ⟨.bindRx, false, rfl⟩
  | i2cInit => exact .inl ⟨.i2cInit, false, rfl⟩
  | i2cWrite stop => exact .inl ⟨.i2cWrite, stop, by cases stop <;> rfl⟩
  | i2cRead => exact .inl ⟨.i2cRead, false, rfl⟩
  | spiInit => exact .inl ⟨.spiInit, false, rfl⟩
  | spiWrite => exact .inl ⟨.spiWrite, false, rfl⟩
  | spiRead => exact .inl ⟨.spiRead, false, rfl⟩
  | spiBusy => exact .inl ⟨.spiBusy, false, rfl⟩
  | spiCsLow => exact .inl ⟨.spiCsLow, false, rfl⟩
  | spiCsHigh => exact .inl ⟨.spiCsHigh, false, rfl⟩
  | flashInit => exact .inl ⟨.flashInit, false, rfl⟩
  | flashReadId => exact .inl ⟨.flashReadId, false, rfl⟩
  | flashRead => exact .inl ⟨.flashRead, false, rfl⟩
  | flashWrite => exact .inl ⟨.flashWrite, false, rfl⟩
  | flashBusy => exact .inl ⟨.flashBusy, false, rfl⟩
  | frameReadId tail => exact .inr ⟨.readId, tail, rfl⟩
  | frameRead tail => exact .inr ⟨.read, tail, rfl⟩
  | frameWriteEnable tail => exact .inr ⟨.writeEnable, tail, rfl⟩
  | frameSectorErase tail => exact .inr ⟨.sectorErase, tail, rfl⟩
  | framePageProgram tail => exact .inr ⟨.pageProgram, tail, rfl⟩
  | frameReadStatus tail => exact .inr ⟨.readStatus, tail, rfl⟩

theorem encode_command {p : Opcode} {stop : Bool} {i : Instr} (h : p.instr? stop = some i) :
    encode i = .cmd32 (commandWord p stop) := by
  cases stop <;> cases p <;> cases h <;> rfl

theorem encode_frame (c : FrameCmd) (tail : List Byte) : encode (c.instr tail) = .spiFrame (c.code :: tail) := by
  cases c <;> rfl

/-! ## The maps of R63 and R66 -/

theorem opcodeOf?_code (p : Opcode) : opcodeOf? p.code = some p := by cases p <;> rfl

theorem code_of_opcodeOf? {b : Byte} {p : Opcode} (h : opcodeOf? b = some p) : p.code = b :=
  eq_of_beq (List.find?_some (p := fun p => Opcode.code p == b) h)

theorem frameCmdOf?_code (c : FrameCmd) : frameCmdOf? c.code = some c := by cases c <;> rfl

theorem code_of_frameCmdOf? {b : Byte} {c : FrameCmd} (h : frameCmdOf? b = some c) : c.code = b :=
  eq_of_beq (List.find?_some (p := fun c => FrameCmd.code c == b) h)

/-! ## The fields of a command word (R60) -/

theorem cmdOpcode_commandWord (p : Opcode) (stop : Bool) : cmdOpcode (commandWord p stop) = p.code :=
  BitVec.extractLsb'_append_eq_right

/-- The bits of a command word, field by field. -/
theorem getLsbD_commandWord (p : Opcode) (stop : Bool) (k : Nat) :
    (commandWord p stop).getLsbD k =
      if k < 8 then p.code.getLsbD k else if k - 8 < 1 then (BitVec.ofBool stop).getLsbD (k - 8) else false := by
  change (((0#23 ++ BitVec.ofBool stop) ++ p.code : BitVec (23 + 1 + 8))).getLsbD k = _
  simp only [BitVec.getLsbD_append, BitVec.getLsbD_zero]

theorem cmdStop_commandWord (p : Opcode) (stop : Bool) : cmdStop (commandWord p stop) = stop := by
  rw [cmdStop, getLsbD_commandWord]
  simp

theorem cmdReserved_commandWord (p : Opcode) (stop : Bool) : cmdReserved (commandWord p stop) = 0 := by
  ext k hk
  simp [cmdReserved, BitVec.getElem_extractLsb', getLsbD_commandWord, show ¬ 9 + k < 8 by omega,
    show ¬ 9 + k - 8 < 1 by omega]

/-- A word is its three fields put together. -/
theorem commandFields_append (w : Word) : cmdReserved w ++ BitVec.ofBool (cmdStop w) ++ cmdOpcode w = w := by
  ext k hk
  simp only [cmdReserved, cmdStop, cmdOpcode, BitVec.getElem_append, BitVec.getElem_extractLsb']
  split
  · simp [BitVec.getLsbD_eq_getElem hk]
  · split
    · obtain rfl : k = 8 := by omega
      simp
    · rw [show 9 + (k - 8 - 1) = k by omega, BitVec.getLsbD_eq_getElem hk]

theorem commandWord_of_fields {w : Word} {p : Opcode} (hopcode : p.code = cmdOpcode w) (hreserved : cmdReserved w = 0) :
    commandWord p (cmdStop w) = w := by
  rw [commandWord, hopcode, ← hreserved, commandFields_append]

/-! ## Both directions -/

theorem decode_commandWord {p : Opcode} {stop : Bool} {i : Instr} (h : p.instr? stop = some i) :
    decode (.cmd32 (commandWord p stop)) = .ok i := by
  simp [decode, decodeCmd, cmdOpcode_commandWord, opcodeOf?_code, cmdReserved_commandWord, cmdStop_commandWord, h]

theorem decode_spiFrame (c : FrameCmd) (tail : List Byte) :
    decode (.spiFrame (c.code :: tail)) = .ok (c.instr tail) := by
  simp [decode, decodeFrame, frameParts, frameCmdOf?_code]

/-- The command and the tail of a frame are its first byte and the rest. -/
theorem frameParts_ok {bytes tail : List Byte} {c : FrameCmd} (h : frameParts bytes = .ok (c, tail)) :
    bytes = c.code :: tail := by
  unfold frameParts at h
  split at h
  · cases h
  · split at h
    · cases h
    · cases h
      rw [code_of_frameCmdOf? ‹_›]

/-- A frame that decodes has the command of its first byte. -/
theorem decode_spiFrame_ok {bytes : List Byte} {i : Instr} (h : decode (.spiFrame bytes) = .ok i) :
    ∃ c tail, frameParts bytes = .ok (c, tail) ∧ i = c.instr tail := by
  change decodeFrame bytes = .ok i at h
  unfold decodeFrame at h
  split at h
  · cases h
  · cases h
    exact ⟨_, _, ‹_›, rfl⟩

theorem encode_of_decode {c : Code} {i : Instr} (h : decode c = .ok i) : encode i = c := by
  cases c with
  | cmd32 w =>
    obtain ⟨p, hopcode, hreserved, hinstr⟩ := decode_cmd32_ok h
    rw [encode_command hinstr, commandWord_of_fields (code_of_opcodeOf? hopcode) hreserved]
  | spiFrame bytes =>
    obtain ⟨c, tail, hparts, rfl⟩ := decode_spiFrame_ok h
    rw [encode_frame, frameParts_ok hparts]

theorem decode_encode (i : Instr) : decode (encode i) = .ok i := by
  rcases command_or_frame i with ⟨p, stop, hinstr⟩ | ⟨c, tail, rfl⟩
  · rw [encode_command hinstr, decode_commandWord hinstr]
  · rw [encode_frame, decode_spiFrame]

/-- Settles O2: a code that decodes is put together again from its parts, and an encoding decodes. -/
theorem decodeAgreesWithEncode : Obligations.DecodeAgreesWithEncode := by
  intro c i
  refine ⟨encode_of_decode, ?_⟩
  rintro rfl
  exact decode_encode i

/-- Settles O1: each word is the encoding written out, or is refused by the check it fails. -/
theorem decodeOfWrittenWords : Obligations.DecodeOfWrittenWords :=
  ⟨rfl, rfl, rfl, rfl, rfl, rfl, rfl, rfl, rfl, rfl, rfl⟩

/-! ## Legal words (R63, R65) -/

/-- The bytes of R63 are the codes of its opcodes. -/
theorem mem_codes_iff (b : Byte) : b ∈ Opcode.all.map Opcode.code ↔ ∃ p, opcodeOf? b = some p := by
  rw [List.mem_map]
  refine ⟨?_, fun ⟨p, hp⟩ => ⟨p, List.mem_of_find?_eq_some hp, code_of_opcodeOf? hp⟩⟩
  rintro ⟨p, _, rfl⟩
  exact ⟨p, opcodeOf?_code p⟩

/-- An opcode has an instruction unless STOP comes with another than I2C_WRITE. -/
theorem instr?_isSome_iff (p : Opcode) (stop : Bool) :
    (∃ i, p.instr? stop = some i) ↔ (stop = true → p.code = 0x11) := by
  cases stop with
  | false => cases p <;> simp [Opcode.instr?]
  | true => cases p <;> simp [Opcode.instr?, Opcode.code]

/-- Which words decode, field by field. -/
theorem decode_cmd32_isOk_iff (w : Word) :
    (∃ i, decode (.cmd32 w) = .ok i) ↔
      cmdOpcode w ∈ Opcode.all.map Opcode.code ∧ cmdReserved w = 0 ∧ (cmdStop w = true → cmdOpcode w = 0x11) := by
  rw [mem_codes_iff]
  constructor
  · rintro ⟨i, hdecode⟩
    obtain ⟨p, hopcode, hreserved, hinstr⟩ := decode_cmd32_ok hdecode
    refine ⟨⟨p, hopcode⟩, hreserved, fun hstop => ?_⟩
    exact (code_of_opcodeOf? hopcode).symm.trans ((instr?_isSome_iff p (cmdStop w)).1 ⟨i, hinstr⟩ hstop)
  · rintro ⟨⟨p, hopcode⟩, hreserved, hstop⟩
    have hcode : p.code = cmdOpcode w := code_of_opcodeOf? hopcode
    obtain ⟨i, hinstr⟩ := (instr?_isSome_iff p (cmdStop w)).2 fun h => hcode.trans (hstop h)
    refine ⟨i, ?_⟩
    rw [← commandWord_of_fields hcode hreserved]
    exact decode_commandWord hinstr

theorem writeCmd_illegal {w : Word} {s : State} (hclear : s.fault = false) (h : ¬ ∃ i, decode (.cmd32 w) = .ok i) :
    writeCmd w s = .next (faulted s 1) := by
  cases hdecode : decode (.cmd32 w) with
  | ok i => exact absurd ⟨i, hdecode⟩ h
  | error e => simp [writeCmd, hclear, hdecode, raiseFault_of_clear hclear, faultNumber]

theorem writeCmd_frozen {w : Word} {s : State} (hfrozen : s.fault = true) : writeCmd w s = .next s := by
  simp [writeCmd, hfrozen]

/-- Settles O3: a word decodes exactly when it is legal in R65's words. -/
theorem commandWordsExecuteOrFault : Obligations.CommandWordsExecuteOrFault := by
  intro w s hclear
  refine ⟨fun hlegal => ?_, fun hillegal => ?_⟩
  · obtain ⟨i, hdecode⟩ := (decode_cmd32_isOk_iff w).2 hlegal
    exact ⟨i, encode_of_decode hdecode, (step_commandMove w s).trans (writeCmd_legal hclear hdecode)⟩
  · exact (step_commandMove w s).trans (writeCmd_illegal hclear (mt (decode_cmd32_isOk_iff w).1 hillegal))

/-- A listed move is the one the step takes. -/
theorem step_of_moves {s : State} {m : Move} {rest : List Move} (h : s.moves = m :: rest) :
    step s = performMove m { s with moves := rest } := by
  simp [step, nextStep, h]

theorem performMove_disabled {m : Move} {s : State} (h : moveEnabled m s = false) : performMove m s = .next s := by
  simp [performMove, h]

theorem performMove_enabled {m : Move} {s : State} (h : moveEnabled m s = true) : performMove m s = runMove m s := by
  simp [performMove, h]

/-- Settles O4: a command word at the head of the list is a write to `CMD`. -/
theorem stepRunsTheCommandWord : Obligations.StepRunsTheCommandWord := by
  intro s w i rest hmoves hdecode
  have hstep : step s = writeCmd w { s with moves := rest } := step_of_moves hmoves
  exact ⟨fun hclear => hstep.trans (writeCmd_legal hclear hdecode),
    fun hfrozen => hstep.trans (writeCmd_frozen hfrozen)⟩

/-- Settles O6: the next step by the list of moves, and the stream where it is empty. -/
theorem stepTakesTheNextMove : Obligations.StepTakesTheNextMove := by
  intro s
  refine ⟨fun m rest hmoves => step_of_moves hmoves,
    fun m rest hmoves hdisabled => (step_of_moves hmoves).trans (performMove_disabled hdisabled), fun hnone => ?_⟩
  simp [step, nextStep, hnone]

end Sys2Proof.Machine
end

section
/-!
PROOFS. What a host access and a handler can do, each said once as an inversion with no hypothesis on the state: the
claims over all moves take their cases from here. A command is its opcode's effect on the latched operands.
-/

namespace Sys2Proof.Machine

/-! ## The issue effect of an opcode (30_encoding.md R64) -/

/-- The issue effect of each command, by opcode. -/
def effectOf (p : Opcode) : State → Except FaultCode State :=
  match p with
  | .bindTx => bindTx
  | .bindRx => bindRx
  | .i2cInit => i2cInit
  | .i2cWrite => i2cWrite
  | .i2cRead => i2cRead
  | .spiInit => spiInit
  | .spiWrite => spiWrite
  | .spiRead => spiRead
  | .spiBusy => spiBusyQuery
  | .spiCsLow => spiCsLow
  | .spiCsHigh => spiCsHigh
  | .flashInit => flashInit
  | .flashReadId => flashReadId
  | .flashRead => flashRead
  | .flashWrite => flashWrite
  | .flashBusy => flashBusy

/-- The instruction of an opcode is the issue of its effect. -/
theorem exec_command {p : Opcode} {stop : Bool} {i : Instr} (h : p.instr? stop = some i) (s : State) :
    exec i s = issue p stop (effectOf p) s := by
  cases stop <;> cases p <;> cases h <;> rfl

/-- A binding writes the one slot with some owner. -/
theorem bindTx_ok {s t : State} (h : bindTx s = .ok t) :
    ∃ e, t = finishOp { s with arb := { s.arb with tx := e } } := by
  unfold bindTx at h
  split at h <;> cases h
  exact ⟨_, rfl⟩

theorem bindRx_ok {s t : State} (h : bindRx s = .ok t) :
    ∃ e, t = finishOp { s with arb := { s.arb with rx := e } } := by
  unfold bindRx at h
  split at h <;> cases h
  exact ⟨_, rfl⟩

/-- `SpiInit` field by field: chip select rises at the chip as it would before the engine is cleared (R103). -/
theorem spiInitState_eq (s : State) :
    spiInitState s = { s with
      arb := { mode := .spi, tx := some .spi, rx := some .spi }, spi := SpiState.reset
      cs := true, dev := (csHigh s).dev, draws := (csHigh s).draws } := by
  have hrise := csHigh_eq (s := s) (u := { s with spi := SpiState.reset }) rfl rfl rfl rfl
  rw [spiInitState, hrise, takeBus]

/-- What a command did that was not turned away. -/
structure CommandTaken (s : State) (p : Opcode) (stop : Bool) (t : State) : Prop where
  clear : s.fault = false
  idle : s.op.opc = none
  check : issueCheck p s = none
  effect : effectOf p (latchOp p stop s) = .ok t

/-- A command is ignored, raises a fault, or is taken. -/
theorem issue_taken_cases {p : Opcode} {stop : Bool} {s t : State} (h : issue p stop (effectOf p) s = .next t) :
    t = s ∨ (∃ f, t = raiseFault f s) ∨ CommandTaken s p stop t := by
  rcases issue_cases h with ⟨_, rfl⟩ | ⟨_, _, rfl⟩ | ⟨_, _, f, _, rfl⟩ | ⟨_, _, _, f, _, rfl⟩ | ⟨hc, hi, hk, hok⟩
  · exact .inl rfl
  · exact .inr (.inl ⟨_, rfl⟩)
  · exact .inr (.inl ⟨f, rfl⟩)
  · exact .inr (.inl ⟨f, rfl⟩)
  · exact .inr (.inr ⟨hc, hi, hk, hok⟩)

/-! ## The host (20_memory.md R37 to R39) -/

/-- A host write of an operand register (R39). -/
def operandWrite (a : HostAccess) : Prop :=
  ∃ off w, a = { dir := .write, bits := 32, off := off, data := w } ∧ off ∈ [0x004, 0x008, 0x00C]

/-- All that a host access can do. -/
inductive HostStep (s : State) (a : HostAccess) : State → Prop where
  | ignored : HostStep s a s
  | raises (f : FaultCode) : HostStep s a (raiseFault f s)
  | answers (w : Word) : HostStep s a (answerHost w s)
  | raisesOnRead (f : FaultCode) : HostStep s a (answerHost 0 (raiseFault f s))
  | storesOperands {reg : OperandRegs} (hwrite : operandWrite a) : HostStep s a { s with reg := reg }
  | storesByte {i : Nat} {w : Word} (hwrite : a = { dir := .write, bits := 8, off := windowBase + i, data := w })
      (hrange : i < s.par.bufBytes) (hidle : s.op.opc = none) : HostStep s a (setBufByte s i (w.setWidth 8))
  | takesCommand {p : Opcode} {stop : Bool} {i : Instr} {t : State} (hmove : Move.host a = commandMove a.data)
      (hdecode : decode (.cmd32 a.data) = .ok i) (hinstr : p.instr? stop = some i) (htaken : CommandTaken s p stop t) :
      HostStep s a t

theorem faultingAccess_hostStep (d : Dir) (s : State) (a : HostAccess) : HostStep s a (faultingAccess d s) := by
  cases d with
  | read => exact .raisesOnRead .hostAccess
  | write => exact .raises .hostAccess

theorem writeCmd_hostStep {a : HostAccess} {s t : State} (hmove : Move.host a = commandMove a.data)
    (h : writeCmd a.data s = .next t) : HostStep s a t := by
  unfold writeCmd at h
  split at h
  · cases h
    exact .ignored
  · split at h
    · cases h
      exact .raises .illegalCmd
    · rename_i i hdecode
      obtain ⟨p, _, _, hinstr⟩ := decode_cmd32_ok hdecode
      rw [exec_command hinstr] at h
      rcases issue_taken_cases h with rfl | ⟨f, rfl⟩ | htaken
      · exact .ignored
      · exact .raises f
      · exact .takesCommand hmove hdecode hinstr htaken

/-- A 32-bit write of a register is a command, stores an operand or is ignored. -/
theorem regWrite?_hostStep {off : Nat} {w : Word} {s t : State} (h : regWrite? off w s = some (.next t)) :
    HostStep s { dir := .write, bits := 32, off := off, data := w } t := by
  unfold regWrite? at h
  split at h
  case isTrue hoff =>
    subst hoff
    exact writeCmd_hostStep rfl (Option.some.inj h)
  split at h
  case isTrue hoff =>
    cases h
    exact .storesOperands ⟨off, w, rfl, by simp [hoff]⟩
  split at h
  case isTrue hoff =>
    cases h
    exact .storesOperands ⟨off, w, rfl, by simp [hoff]⟩
  split at h
  case isTrue hoff =>
    cases h
    exact .storesOperands ⟨off, w, rfl, by simp [hoff]⟩
  repeat' split at h
  all_goals cases h
  all_goals exact .ignored

theorem regAccess_hostStep {a : HostAccess} {s t : State} (h : regAccess a s = .next t) : HostStep s a t := by
  obtain ⟨dir, bits, off, data⟩ := a
  unfold regAccess at h
  split at h
  · cases h
    exact faultingAccess_hostStep _ s _
  · rename_i hbits
    obtain rfl : bits = 32 := not_not.1 hbits
    cases dir with
    | read =>
      simp only at h
      split at h <;> cases h
      · exact .answers _
      · exact faultingAccess_hostStep .read s _
    | write =>
      simp only at h
      split at h
      · subst h
        exact regWrite?_hostStep ‹_›
      · cases h
        exact faultingAccess_hostStep .write s _

/-- An access to the window faults, or moves one byte while no operation is live. -/
theorem windowAccess_hostStep {a : HostAccess} {s : State} (hlow : windowBase ≤ a.off)
    (hhigh : a.off < windowBase + s.par.bufBytes) : HostStep s a (windowAccess a (a.off - windowBase) s) := by
  by_cases hopen : a.bits = 8 ∧ s.op.opc = none
  · obtain ⟨dir, bits, off, data⟩ := a
    obtain ⟨rfl, hidle⟩ : bits = 8 ∧ s.op.opc = none := hopen
    simp only at hlow hhigh
    cases dir with
    | read => simpa [windowAccess, hidle] using HostStep.answers _
    | write =>
      simpa [windowAccess, hidle] using HostStep.storesByte (i := off - windowBase) (w := data)
        (by rw [Nat.add_sub_cancel' hlow]) (by omega) hidle
  · rw [windowAccess_faulting (not_and_or.1 hopen)]
    exact faultingAccess_hostStep _ s a

theorem hostAccess_hostStep {a : HostAccess} {s t : State} (h : hostAccess a s = .next t) : HostStep s a t := by
  unfold hostAccess at h
  split at h
  · exact regAccess_hostStep h
  · split at h <;> cases h
    exact windowAccess_hostStep (Nat.not_lt.1 ‹_›) ‹_›

/-! ## The handlers (41_i2c.md R88, R89, R93, 42_spi.md R107, R108) -/

theorem i2cTxHandler_completes {s : State} (hrem : s.i2c.rem = 0) :
    i2cTxHandler s = .next { s with i2c := { s.i2c with ackOk := true, done := true, txie := false } } := by
  simp [i2cTxHandler, hrem]

theorem i2cTxHandler_loads {s : State} (hrem : s.i2c.rem ≠ 0) (hcur : s.i2c.cur.toNat < s.par.bufBytes) :
    i2cTxHandler s = .next { s with
      i2c := { s.i2c with
        txdata := bufByte s s.i2c.cur.toNat, txifg := false, cur := s.i2c.cur + 1, rem := s.i2c.rem - 1 } } := by
  rw [i2cTxHandler, if_neg hrem, memRead, if_pos hcur]

/-- The last byte of a read is stored. -/
theorem i2cRxHandler_last {s : State} (hcur : s.i2c.cur.toNat < s.par.bufBytes) (hrem : s.i2c.rem - 1 = 0) :
    i2cRxHandler s = .next { setBufByte s s.i2c.cur.toNat s.i2c.rxbuf with
      i2c := { s.i2c with rxifg := false, rem := s.i2c.rem - 1, done := true } } := by
  simp only [i2cRxHandler, memWrite, hcur, if_true, if_pos hrem]

/-- A byte of a read with more to come is stored; with one left the stop is issued. -/
theorem i2cRxHandler_more {s : State} (hcur : s.i2c.cur.toNat < s.par.bufBytes) (hrem : s.i2c.rem - 1 ≠ 0) :
    i2cRxHandler s = .next { setBufByte s s.i2c.cur.toNat s.i2c.rxbuf with
      i2c := { s.i2c with
        rxifg := false, rem := s.i2c.rem - 1, cur := s.i2c.cur + 1
        stopping := if s.i2c.rem - 1 = 1 then true else s.i2c.stopping } } := by
  simp only [i2cRxHandler, memWrite, hcur, if_true, if_neg hrem]

theorem spiTxHandler_completes {s : State} (hrem : s.spi.rem = 0) :
    spiTxHandler s = .next { s with spi := { s.spi with done := true, txie := false } } := by
  simp [spiTxHandler, hrem]

theorem spiTxHandler_loads {s : State} {v : Byte} (hrem : s.spi.rem ≠ 0)
    (hread : srcRead s.spi.mem s.spi.cur.toNat s = .ok v) :
    spiTxHandler s = .next { s with
      spi := { s.spi with txbuf := v, txFull := true, cur := s.spi.cur + 1, rem := s.spi.rem - 1 } } := by
  rw [spiTxHandler, if_neg hrem, hread]

theorem spiRxHandler_last {s t : State} (hwrite : dstWrite s.spi.mem s.spi.cur.toNat s.spi.rxbuf s = .ok t)
    (hrem : s.spi.rem - 1 = 0) :
    spiRxHandler s = .next { t with
      spi := { s.spi with
        rxFull := false, txbuf := 0, txFull := true, rem := s.spi.rem - 1, done := true, rxie := false } } := by
  simp only [spiRxHandler, hwrite, if_pos hrem]

theorem spiRxHandler_more {s t : State} (hwrite : dstWrite s.spi.mem s.spi.cur.toNat s.spi.rxbuf s = .ok t)
    (hrem : s.spi.rem - 1 ≠ 0) :
    spiRxHandler s = .next { t with
      spi := { s.spi with
        rxFull := false, txbuf := 0, txFull := true, rem := s.spi.rem - 1, cur := s.spi.cur + 1 } } := by
  simp only [spiRxHandler, hwrite, if_neg hrem]

/-- All that a handler can do where it does not index outside its memory. -/
inductive HandlerStep (s : State) : Source → State → Prop where
  | i2cTxCompletes (hrem : s.i2c.rem = 0) :
      HandlerStep s .i2cTx { s with i2c := { s.i2c with ackOk := true, done := true, txie := false } }
  | i2cTxLoads (hrem : s.i2c.rem ≠ 0) (hcur : s.i2c.cur.toNat < s.par.bufBytes) :
      HandlerStep s .i2cTx { s with
        i2c := { s.i2c with
          txdata := bufByte s s.i2c.cur.toNat, txifg := false, cur := s.i2c.cur + 1, rem := s.i2c.rem - 1 } }
  | i2cRxLast (hcur : s.i2c.cur.toNat < s.par.bufBytes) (hrem : s.i2c.rem - 1 = 0) :
      HandlerStep s .i2cRx { setBufByte s s.i2c.cur.toNat s.i2c.rxbuf with
        i2c := { s.i2c with rxifg := false, rem := s.i2c.rem - 1, done := true } }
  | i2cRxMore (hcur : s.i2c.cur.toNat < s.par.bufBytes) (hrem : s.i2c.rem - 1 ≠ 0) :
      HandlerStep s .i2cRx { setBufByte s s.i2c.cur.toNat s.i2c.rxbuf with
        i2c := { s.i2c with
          rxifg := false, rem := s.i2c.rem - 1, cur := s.i2c.cur + 1
          stopping := if s.i2c.rem - 1 = 1 then true else s.i2c.stopping } }
  | i2cNack : HandlerStep s .i2cNack { s with i2c := { s.i2c with nackifg := false, done := true, phase := .ackFailed } }
  | spiTxCompletes (hrem : s.spi.rem = 0) :
      HandlerStep s .spiTx { s with spi := { s.spi with done := true, txie := false } }
  | spiTxLoads {v : Byte} (hrem : s.spi.rem ≠ 0) (hread : srcRead s.spi.mem s.spi.cur.toNat s = .ok v) :
      HandlerStep s .spiTx { s with
        spi := { s.spi with txbuf := v, txFull := true, cur := s.spi.cur + 1, rem := s.spi.rem - 1 } }
  | spiRxLast {t : State} (hwrite : dstWrite s.spi.mem s.spi.cur.toNat s.spi.rxbuf s = .ok t)
      (hrem : s.spi.rem - 1 = 0) :
      HandlerStep s .spiRx { t with
        spi := { s.spi with
          rxFull := false, txbuf := 0, txFull := true, rem := s.spi.rem - 1, done := true, rxie := false } }
  | spiRxMore {t : State} (hwrite : dstWrite s.spi.mem s.spi.cur.toNat s.spi.rxbuf s = .ok t)
      (hrem : s.spi.rem - 1 ≠ 0) :
      HandlerStep s .spiRx { t with
        spi := { s.spi with
          rxFull := false, txbuf := 0, txFull := true, rem := s.spi.rem - 1, cur := s.spi.cur + 1 } }

theorem i2cTxHandler_handlerStep {s t : State} (h : i2cTxHandler s = .next t) : HandlerStep s .i2cTx t := by
  by_cases hrem : s.i2c.rem = 0
  · rw [i2cTxHandler_completes hrem] at h
    cases h
    exact .i2cTxCompletes hrem
  · by_cases hcur : s.i2c.cur.toNat < s.par.bufBytes
    · rw [i2cTxHandler_loads hrem hcur] at h
      cases h
      exact .i2cTxLoads hrem hcur
    · rw [i2cTxHandler, if_neg hrem, memRead, if_neg hcur] at h
      cases h

theorem i2cRxHandler_handlerStep {s t : State} (h : i2cRxHandler s = .next t) : HandlerStep s .i2cRx t := by
  by_cases hcur : s.i2c.cur.toNat < s.par.bufBytes
  · by_cases hrem : s.i2c.rem - 1 = 0
    · rw [i2cRxHandler_last hcur hrem] at h
      cases h
      exact .i2cRxLast hcur hrem
    · rw [i2cRxHandler_more hcur hrem] at h
      cases h
      exact .i2cRxMore hcur hrem
  · simp [i2cRxHandler, memWrite, hcur] at h

theorem spiTxHandler_handlerStep {s t : State} (h : spiTxHandler s = .next t) : HandlerStep s .spiTx t := by
  by_cases hrem : s.spi.rem = 0
  · rw [spiTxHandler_completes hrem] at h
    cases h
    exact .spiTxCompletes hrem
  · cases hread : srcRead s.spi.mem s.spi.cur.toNat s with
    | error f =>
      rw [spiTxHandler, if_neg hrem, hread] at h
      cases h
    | ok v =>
      rw [spiTxHandler_loads hrem hread] at h
      cases h
      exact .spiTxLoads hrem hread

theorem spiRxHandler_handlerStep {s t : State} (h : spiRxHandler s = .next t) : HandlerStep s .spiRx t := by
  cases hwrite : dstWrite s.spi.mem s.spi.cur.toNat s.spi.rxbuf s with
  | error f => simp [spiRxHandler, hwrite] at h
  | ok u =>
    by_cases hrem : s.spi.rem - 1 = 0
    · rw [spiRxHandler_last hwrite hrem] at h
      cases h
      exact .spiRxLast hwrite hrem
    · rw [spiRxHandler_more hwrite hrem] at h
      cases h
      exact .spiRxMore hwrite hrem

theorem runHandler_handlerStep {src : Source} {s t : State} (h : runHandler src s = .next t) : HandlerStep s src t := by
  cases src with
  | i2cTx => exact i2cTxHandler_handlerStep h
  | i2cRx => exact i2cRxHandler_handlerStep h
  | i2cNack =>
    cases h
    exact .i2cNack
  | spiTx => exact spiTxHandler_handlerStep h
  | spiRx => exact spiRxHandler_handlerStep h

/-- A dispatched source runs its handler, or raises MODE_MISMATCH (40_arbiter.md R77, R79). -/
theorem dispatchIsr_cases {src : Source} {s t : State} (h : dispatchIsr src s = .next t) :
    HandlerStep s src t ∨ (sourceSlot src s ≠ some (sourceEngine src) ∧ t = raiseFault .modeMismatch s) := by
  unfold dispatchIsr at h
  split at h
  · exact .inl (runHandler_handlerStep h)
  · cases h
    exact .inr ⟨‹_›, rfl⟩

/-! ## The sequencer and the environment -/

/-- A clocked byte that the chip does not follow: chip select is high, or there is no contract (20_memory.md R52). -/
theorem chipShift_unselected {s : State} (h : s.cs = true ∨ s.par.flash = .unconstrained) : chipShift s = s := by
  cases hflash : s.par.flash with
  | unconstrained => simp [chipShift, hflash]
  | reference =>
    have hcs : s.cs = true := h.resolve_right (by simp [hflash])
    simp [chipShift, hflash, hcs]

/-- A selected chip takes the MOSI byte at the end of its frame. -/
theorem chipShift_selected {s : State} (hcs : s.cs = false) (hflash : s.par.flash = .reference) :
    ∃ r, chipShift s = exchangeByte r s := by
  cases hparts : frameParts s.dev.frame with
  | error e => exact ⟨s.spi.rxbuf, by simp [chipShift, hflash, hcs, hparts]⟩
  | ok p =>
    obtain ⟨r, hrun⟩ := runFrame_low p.1 p.2 hcs
    refine ⟨r, ?_⟩
    simp only [chipShift, hflash, hcs, hparts]
    exact hrun

/-- The chip's part of a clocked byte writes the receive register and the chip alone. -/
theorem chipShift_self (s : State) :
    chipShift s = { s with spi := { s.spi with rxbuf := (chipShift s).spi.rxbuf }, dev := (chipShift s).dev } := by
  by_cases h : s.cs = true ∨ s.par.flash = .unconstrained
  · rw [chipShift_unselected h]
  · obtain ⟨hcs, hflash⟩ := not_or.1 h
    obtain ⟨r, hr⟩ := chipShift_selected (s := s) (by simpa using hcs) (by cases hf : s.par.flash <;> simp_all)
    rw [hr, exchangeByte]

/-- The actions that start a transfer (43_flash.md R116, R120). -/
inductive ActionStart (s : State) : Action → State → Prop where
  | txc (c : Byte) (k : Half) : ActionStart s (.txc c k) (markStarted (startSpi .tx .hdr 0 k (setHeaderCommand c s)))
  | txb (b n : Half) : ActionStart s (.txb b n) (markStarted (startSpi .tx .buf b n s))
  | rxb (b n : Half) : ActionStart s (.rxb b n) (markStarted (startSpi .rx .buf b n s))
  | rxs : ActionStart s .rxs (markStarted (startSpi .rx .sr 0 1 s))

/-- All that an enabled step of the flash sequencer can do at an action (43_flash.md R122). -/
inductive ActionStep (s : State) : Action → State → Prop where
  | selects : ActionStep s .csl (csLow { s with fl := { s.fl with pc := s.fl.pc + 1 } })
  | deselects (hdrained : spiBusy s = false) :
      ActionStep s .csh (csHigh { s with fl := { s.fl with pc := s.fl.pc + 1 } })
  | finishes {a : Action} (htransfer : transferAction a = true) (hstarted : s.fl.started = true)
      (hphase : s.spi.phase = .idle) : ActionStep s a (nextAction s)
  | starts {a : Action} {t : State} (htransfer : transferAction a = true) (hwaiting : s.fl.started = false)
      (hstart : ActionStart s a t) : ActionStep s a t

/-- A transfer action finishes the transfer it started, or starts it. -/
theorem runAction?_transfer {a : Action} (ha : transferAction a = true) (s : State) :
    runAction? a s =
      if s.fl.started then if s.spi.phase = .idle then some (nextAction s) else none
      else (actionStart? a s).map markStarted := by
  cases a with
  | txc | txb | rxb | rxs => rfl
  | csl | csh | delay => cases ha

theorem actionStart?_some {a : Action} {s u : State} (h : actionStart? a s = some u) :
    ActionStart s a (markStarted u) := by
  cases a <;> cases h
  · exact .txc _ _
  · exact .txb _ _
  · exact .rxb _ _
  · exact .rxs

theorem runAction?_actionStep {a : Action} {s t : State} (h : runAction? a s = some t) : ActionStep s a t := by
  by_cases ha : transferAction a = true
  · rw [runAction?_transfer ha] at h
    split at h
    · split at h <;> cases h
      exact .finishes ha ‹_› ‹_›
    · obtain ⟨u, hu, rfl⟩ := Option.map_eq_some_iff.1 h
      exact .starts ha (by simpa using ‹¬ s.fl.started = true›) (actionStart?_some hu)
  · cases a with
    | csl =>
      cases h
      exact .selects
    | csh =>
      simp only [runAction?] at h
      split at h <;> cases h
      exact .deselects (by simpa using ‹¬ spiBusy s = true›)
    | delay => cases h
    | txc | txb | rxb | rxs => exact absurd rfl ha

/-- The flash sequencer's step, taken apart: a flash command is live and stands at an action. -/
theorem flashStep?_some {s t : State} (h : flashStep? s = some t) :
    flashOpLive s ∧ s.fault = false ∧ ∃ a, s.fl.prog[s.fl.pc]? = some a ∧ ActionStep s a t := by
  unfold flashStep? at h
  split at h
  · rename_i hlive
    obtain ⟨hop, hclear⟩ : isFlashOp s.op.opc = true ∧ s.fault = false := by simpa using hlive
    split at h
    · cases h
    · exact ⟨hop, hclear, _, ‹_›, runAction?_actionStep h⟩
  · cases h

theorem spiGoEnabled_iff (s : State) :
    spiGoEnabled s = true ↔
      s.spi.phase = .waitIdle ∧ s.spi.txFull = false ∧ s.spi.shifting = false ∧ s.fault = false := by
  simp [spiGoEnabled, spiBusy, and_assoc]

theorem spiFinishEnabled_iff (s : State) :
    spiFinishEnabled s = true ↔ s.spi.phase = .transferring ∧ s.spi.done = true ∧ s.fault = false := by
  simp [spiFinishEnabled, and_assoc]

theorem csHighFinishEnabled_iff (s : State) :
    csHighFinishEnabled s = true ↔
      s.op.opc = some .spiCsHigh ∧ s.spi.txFull = false ∧ s.spi.shifting = false ∧ s.fault = false := by
  simp [csHighFinishEnabled, spiBusy, and_assoc]

theorem isFlashOp_iff (o : Option Opcode) :
    isFlashOp o = true ↔
      o = some .flashReadId ∨ o = some .flashRead ∨ o = some .flashWrite ∨ o = some .flashBusy := by
  unfold isFlashOp
  split <;> simp_all

theorem flashFinishEnabled_iff (s : State) :
    flashFinishEnabled s = true ↔
      (s.op.opc = some .flashReadId ∨ s.op.opc = some .flashRead ∨ s.op.opc = some .flashWrite ∨
        s.op.opc = some .flashBusy) ∧ s.fl.pc = s.fl.prog.length ∧ s.fl.prog ≠ [] ∧ s.fault = false := by
  simp [flashFinishEnabled, isFlashOp_iff, and_assoc]

theorem evEraseDelayEnabled_iff (s : State) :
    evEraseDelayEnabled s = true ↔
      s.op.opc = some .flashWrite ∧ s.fl.prog[s.fl.pc]? = some .delay ∧ s.fault = false ∧
        (s.par.eraseFits = true → s.dev.wip = false) := by
  cases hfits : s.par.eraseFits <;> simp [evEraseDelayEnabled, hfits, and_assoc]

theorem evSpiLoadEnabled_iff (s : State) :
    evSpiLoadEnabled s = true ↔
      s.arb.mode = .spi ∧ s.fault = false ∧ s.spi.txFull = true ∧ s.spi.shifting = false := by
  simp [evSpiLoadEnabled, spiBusLive, and_assoc]

theorem evSpiShiftDoneEnabled_iff (s : State) :
    evSpiShiftDoneEnabled s = true ↔ s.arb.mode = .spi ∧ s.fault = false ∧ s.spi.shifting = true := by
  simp [evSpiShiftDoneEnabled, spiBusLive, and_assoc]

end Sys2Proof.Machine
end

section
/-!
PROOFS. Every step keeps soundness (10_state.md R34, 40_arbiter.md R79, 60_exceptions.md R138, R139). `Sound` has six
forms, each of a few fields; how a form is kept by the kinds of change the steps make (an engine moves while its operation
is live, an operation ends, a command is taken) is said first, and each step of each agent is then one of these kinds in
every form.
-/

namespace Sys2Proof.Machine

/-! ## What the form of the operation says -/

theorem OperationForm.not_started {s : State} (h : OperationForm s) (hprog : s.fl.prog = []) :
    s.fl.started = false := by
  refine eq_false_of_ne_true fun hstarted => ?_
  obtain ⟨a, ha, _⟩ := h.started hstarted
  simp [hprog] at ha

/-- An operation that is not an I2C transfer leaves the I2C engine idle. -/
theorem OperationForm.i2c_idle {s : State} (h : OperationForm s) (hop : ¬ i2cOpLive s) : s.i2c.phase = .idle :=
  not_not.1 (mt h.i2cPhase hop)

/-- An operation that uses no SPI leaves the SPI engine idle. -/
theorem OperationForm.spi_idle {s : State} (h : OperationForm s) (hop : ¬ spiOpLive s) (hflash : ¬ flashOpLive s) :
    s.spi.phase = .idle :=
  not_not.1 fun hphase => (h.spiPhase hphase).elim hop fun ⟨hlive, _⟩ => hflash hlive

/-- An operation that is not a flash command has no program. -/
theorem OperationForm.prog_nil {s : State} (h : OperationForm s) (hop : ¬ flashOpLive s) : s.fl.prog = [] :=
  not_not.1 (mt h.program hop)

/-- A phase that is not idle, or a program, belongs to a live operation. -/
theorem i2cOpLive.ne_none {s : State} (h : i2cOpLive s) : s.op.opc ≠ none := by
  rcases h with h | h <;> simp [h]

theorem spiOpLive.ne_none {s : State} (h : spiOpLive s) : s.op.opc ≠ none := by
  rcases h with h | h <;> simp [h]

theorem flashOpLive.ne_none {s : State} (h : flashOpLive s) : s.op.opc ≠ none := by
  rintro hnone
  simp [flashOpLive, hnone, isFlashOp] at h

theorem OperationForm.live_of_spiPhase {s : State} (h : OperationForm s) (hphase : s.spi.phase ≠ .idle) :
    s.op.opc ≠ none :=
  (h.spiPhase hphase).elim spiOpLive.ne_none fun ⟨hlive, _⟩ => hlive.ne_none

/-- The three kinds of live operation exclude each other. -/
theorem i2cOpLive.not_spi {s : State} (h : i2cOpLive s) : ¬ spiOpLive s := by
  rcases h with h | h <;> simp [spiOpLive, h]

theorem i2cOpLive.not_flash {s : State} (h : i2cOpLive s) : ¬ flashOpLive s := by
  rcases h with h | h <;> simp [flashOpLive, h, isFlashOp]

theorem spiOpLive.not_i2c {s : State} (h : spiOpLive s) : ¬ i2cOpLive s := fun hi => hi.not_spi h

theorem spiOpLive.not_flash {s : State} (h : spiOpLive s) : ¬ flashOpLive s := by
  rcases h with h | h <;> simp [flashOpLive, h, isFlashOp]

theorem flashOpLive.not_i2c {s : State} (h : flashOpLive s) : ¬ i2cOpLive s := fun hi => hi.not_flash h

theorem flashOpLive.not_spi {s : State} (h : flashOpLive s) : ¬ spiOpLive s := fun hs => hs.not_flash h

/-! ## How the forms are kept -/

/-- The form of the operation reads the opcode, the phases and the program's place alone. -/
theorem OperationForm.congr {s t : State} (h : OperationForm s) (hopc : t.op.opc = s.op.opc)
    (hi2c : t.i2c.phase = s.i2c.phase) (hspi : t.spi.phase = s.spi.phase) (hprog : t.fl.prog = s.fl.prog)
    (hpc : t.fl.pc = s.fl.pc) (hstarted : t.fl.started = s.fl.started) : OperationForm t := by
  constructor
  case idle => simpa only [hopc, hi2c, hspi, hprog] using h.idle
  case i2cPhase => simpa only [i2cOpLive, hopc, hi2c] using h.i2cPhase
  case spiPhase => simpa only [spiOpLive, flashOpLive, hopc, hspi, hstarted] using h.spiPhase
  case program => simpa only [flashOpLive, hopc, hprog] using h.program
  case started => simpa only [hprog, hpc, hstarted] using h.started

/-- The I2C engine may move in any way while an I2C transfer is live. -/
theorem OperationForm.i2c_moves {s t : State} (h : OperationForm s) (hlive : i2cOpLive s) (hopc : t.op.opc = s.op.opc)
    (hspi : t.spi.phase = s.spi.phase) (hfl : t.fl = s.fl) : OperationForm t := by
  constructor
  case idle => exact fun hnone => absurd (hopc.symm.trans hnone) hlive.ne_none
  case i2cPhase => exact fun _ => by simpa only [i2cOpLive, hopc] using hlive
  case spiPhase => simpa only [spiOpLive, flashOpLive, hopc, hspi, hfl] using h.spiPhase
  case program => simpa only [flashOpLive, hopc, hfl] using h.program
  case started => simpa only [hfl] using h.started

/-- The SPI engine may move in any way while its phase is not idle. -/
theorem OperationForm.spi_moves {s t : State} (h : OperationForm s) (hphase : s.spi.phase ≠ .idle)
    (hopc : t.op.opc = s.op.opc) (hi2c : t.i2c.phase = s.i2c.phase) (hprog : t.fl.prog = s.fl.prog)
    (hpc : t.fl.pc = s.fl.pc) (hstarted : t.fl.started = s.fl.started) : OperationForm t := by
  constructor
  case idle => exact fun hnone => absurd (hopc.symm.trans hnone) (h.live_of_spiPhase hphase)
  case i2cPhase => simpa only [i2cOpLive, hopc, hi2c] using h.i2cPhase
  case spiPhase => exact fun _ => by simpa only [spiOpLive, flashOpLive, hopc, hstarted] using h.spiPhase hphase
  case program => simpa only [flashOpLive, hopc, hprog] using h.program
  case started => simpa only [hprog, hpc, hstarted] using h.started

/-- Everything idle: the form after an operation has ended. -/
theorem OperationForm.of_idle {t : State} (hi2c : t.i2c.phase = .idle) (hspi : t.spi.phase = .idle)
    (hprog : t.fl.prog = []) (hstarted : t.fl.started = false) : OperationForm t where
  idle _ := ⟨hi2c, hspi, hprog⟩
  i2cPhase h := absurd hi2c h
  spiPhase h := absurd hspi h
  program h := absurd hprog h
  started h := by simp [hstarted] at h

/-- An I2C transfer is live and nothing else moves. -/
theorem OperationForm.of_i2c {t : State} (hlive : i2cOpLive t) (hspi : t.spi.phase = .idle) (hprog : t.fl.prog = [])
    (hstarted : t.fl.started = false) : OperationForm t where
  idle h := absurd h hlive.ne_none
  i2cPhase _ := hlive
  spiPhase h := absurd hspi h
  program h := absurd hprog h
  started h := by simp [hstarted] at h

/-- A host SPI transfer is live and nothing else moves. -/
theorem OperationForm.of_spi {t : State} (hlive : spiOpLive t) (hi2c : t.i2c.phase = .idle) (hprog : t.fl.prog = [])
    (hstarted : t.fl.started = false) : OperationForm t where
  idle h := absurd h hlive.ne_none
  i2cPhase h := absurd hi2c h
  spiPhase _ := .inl hlive
  program h := absurd hprog h
  started h := by simp [hstarted] at h

/-- A flash command standing at the first action of its program, nothing started. -/
theorem OperationForm.of_flash {t : State} (hlive : flashOpLive t) (hi2c : t.i2c.phase = .idle)
    (hspi : t.spi.phase = .idle) (hstarted : t.fl.started = false) : OperationForm t where
  idle h := absurd h hlive.ne_none
  i2cPhase h := absurd hi2c h
  spiPhase h := absurd hspi h
  program _ := hlive
  started h := by simp [hstarted] at h

theorem OwnerForm.congr {s t : State} (h : OwnerForm s) (hopc : t.op.opc = s.op.opc) (harb : t.arb = s.arb) :
    OwnerForm t := by
  constructor
  case i2cOwns => simpa only [i2cOpLive, owns, hopc, harb] using h.i2cOwns
  case spiOwns => simpa only [spiOpLive, flashOpLive, owns, hopc, harb] using h.spiOwns

theorem OwnerForm.of_none {t : State} (hnone : t.op.opc = none) : OwnerForm t where
  i2cOwns h := absurd hnone h.ne_none
  spiOwns h := absurd hnone (h.elim spiOpLive.ne_none flashOpLive.ne_none)

theorem OwnerForm.of_i2c {t : State} (hlive : i2cOpLive t) (howns : owns .i2c t = true) : OwnerForm t where
  i2cOwns _ := howns
  spiOwns h := absurd h (not_or.2 ⟨hlive.not_spi, hlive.not_flash⟩)

theorem OwnerForm.of_spi {t : State} (hnot : ¬ i2cOpLive t) (howns : owns .spi t = true) : OwnerForm t where
  i2cOwns h := absurd h hnot
  spiOwns _ := howns

theorem I2cForm.congr {s t : State} (h : I2cForm s) (hi2c : t.i2c = s.i2c) (hpar : t.par = s.par) : I2cForm t := by
  constructor
  case txPending => simpa only [hi2c] using h.txPending
  case rxPending => simpa only [hi2c] using h.rxPending
  case nackPending => simpa only [hi2c] using h.nackPending
  case oneWay => simpa only [hi2c] using h.oneWay
  case txDone => simpa only [hi2c] using h.txDone
  case rxLeft => simpa only [hi2c] using h.rxLeft
  case inRange => simpa only [hi2c, hpar] using h.inRange

theorem SpiForm.congr {s t : State} (h : SpiForm s) (hspi : t.spi = s.spi) (hprog : t.fl.prog = s.fl.prog)
    (hpar : t.par = s.par) : SpiForm t := by
  constructor
  case txEnabled => simpa only [hspi] using h.txEnabled
  case rxEnabled => simpa only [hspi] using h.rxEnabled
  case rxLeft => simpa only [hspi] using h.rxLeft
  case waiting => simpa only [hspi] using h.waiting
  case inRange => simpa only [hspi, spiMemSize, hpar] using h.inRange
  case actions => simpa only [hprog, hpar] using h.actions

/-- The registers of the SPI datapath are no part of the form. -/
theorem SpiForm.datapath {s t : State} (h : SpiForm s) {txbuf shreg rxbuf : Byte} {txFull shifting rxFull : Bool}
    (hspi : t.spi = { s.spi with
      txbuf := txbuf, txFull := txFull, shreg := shreg, shifting := shifting, rxbuf := rxbuf, rxFull := rxFull })
    (hprog : t.fl.prog = s.fl.prog) (hpar : t.par = s.par) : SpiForm t := by
  constructor
  case txEnabled => simpa only [hspi] using h.txEnabled
  case rxEnabled => simpa only [hspi] using h.rxEnabled
  case rxLeft => simpa only [hspi] using h.rxLeft
  case waiting => simpa only [hspi] using h.waiting
  case inRange => simpa only [hspi, spiMemSize, hpar] using h.inRange
  case actions => simpa only [hprog, hpar] using h.actions

/-- The SPI engine idle and disabled: the form holds whatever its cursor is. -/
theorem SpiForm.of_idle {t : State} (hphase : t.spi.phase = .idle) (htx : t.spi.txie = false) (hrx : t.spi.rxie = false)
    (hactions : ∀ a ∈ t.fl.prog, actionInRange t.par.bufBytes a) : SpiForm t where
  txEnabled h := by simp [htx] at h
  rxEnabled h := by simp [hrx] at h
  rxLeft h := absurd hphase h
  waiting h := by simp [hphase] at h
  inRange h := absurd hphase h
  actions := hactions

theorem MemoryForm.congr {s t : State} (h : MemoryForm s) (hbuf : t.bufmem = s.bufmem) (hpar : t.par = s.par)
    (hdev : t.dev.wf) : MemoryForm t := by
  obtain ⟨hwf, hrange, _⟩ := h
  exact ⟨hbuf ▸ hwf, by rw [hbuf, hpar]; exact hrange, hdev⟩

theorem MemoryForm.dev_wf {s : State} (h : MemoryForm s) : s.dev.wf := h.2.2

theorem MemoryForm.setBufByte {s : State} (h : MemoryForm s) {i : Nat} (hi : i < s.par.bufBytes) (v : Byte) :
    MemoryForm (setBufByte s i v) := by
  obtain ⟨hwf, hrange, hdev⟩ := h
  refine ⟨memPut_wf hwf i v, fun c hc => ?_, hdev⟩
  rcases mem_memPut hc with rfl | hc
  · exact hi
  · exact hrange c hc

/-- A step that keeps the engines, their operation and their memory keeps soundness: what it may change are the operands,
the results, the line, the fault, the chip within its form, and the model's own fields. -/
theorem Sound.congr {s t : State} (h : Sound s) (hopc : t.op.opc = s.op.opc) (harb : t.arb = s.arb)
    (hi2c : t.i2c = s.i2c) (hspi : t.spi = s.spi) (hfl : t.fl = s.fl) (hbuf : t.bufmem = s.bufmem)
    (hpar : t.par = s.par) (hdev : t.dev.wf) : Sound t where
  params := hpar ▸ h.params
  memory := h.memory.congr hbuf hpar hdev
  operation := h.operation.congr hopc (by rw [hi2c]) (by rw [hspi]) (by rw [hfl]) (by rw [hfl]) (by rw [hfl])
  owner := h.owner.congr hopc harb
  i2c := h.i2c.congr hi2c hpar
  spi := h.spi.congr hspi (by rw [hfl]) hpar

theorem Sound.raiseFault {s : State} (h : Sound s) (f : FaultCode) : Sound (raiseFault f s) :=
  h.congr (by simp) (by simp) (by simp) (by simp) (by simp) (by simp) (by simp) (by simpa using h.memory.dev_wf)

theorem Sound.answerHost {s : State} (h : Sound s) (w : Word) : Sound (answerHost w s) :=
  h.congr rfl rfl rfl rfl rfl rfl rfl h.memory.dev_wf

/-- An engine that is idle has no interrupt enabled. -/
theorem SpiForm.disabled {s : State} (h : SpiForm s) (hphase : s.spi.phase ≠ .transferring) :
    s.spi.txie = false ∧ s.spi.rxie = false :=
  ⟨eq_false_of_ne_true fun htx => hphase (h.txEnabled htx).1, eq_false_of_ne_true fun hrx => hphase (h.rxEnabled hrx).1⟩

/-! ## Commands -/

section Commands

variable {s : State} (hs : Sound s) (hidle : s.op.opc = none)

include hs hidle

/-- With no operation live the engines are idle and nothing is loaded or started. -/
theorem Sound.at_rest :
    s.i2c.phase = .idle ∧ s.spi.phase = .idle ∧ s.fl.prog = [] ∧ s.fl.started = false := by
  obtain ⟨hi2c, hspi, hprog⟩ := hs.operation.idle hidle
  exact ⟨hi2c, hspi, hprog, hs.operation.not_started hprog⟩

/-- A command that ends in its issuing step and writes the bus ownership, the results, the line or the chip. -/
theorem Sound.at_rest_of_frame {t : State} (hopc : t.op.opc = none) (hi2c : t.i2c = s.i2c) (hspi : t.spi = s.spi)
    (hfl : t.fl = s.fl) (hbuf : t.bufmem = s.bufmem) (hpar : t.par = s.par) (hdev : t.dev.wf) : Sound t where
  params := hpar ▸ hs.params
  memory := hs.memory.congr hbuf hpar hdev
  operation :=
    hs.operation.congr (hopc.trans hidle.symm) (by rw [hi2c]) (by rw [hspi]) (by rw [hfl]) (by rw [hfl]) (by rw [hfl])
  owner := .of_none hopc
  i2c := hs.i2c.congr hi2c hpar
  spi := hs.spi.congr hspi (by rw [hfl]) hpar

/-- `I2C_INIT` clears the engine (R86). -/
theorem Sound.i2cInit_taken {stop : Bool} {t : State} (h : i2cInit (latchOp .i2cInit stop s) = .ok t) : Sound t := by
  obtain ⟨_, hspi, hprog, hstarted⟩ := hs.at_rest hidle
  cases h
  exact
    { params := hs.params
      memory := hs.memory.congr rfl rfl hs.memory.dev_wf
      operation := .of_idle rfl hspi hprog hstarted
      owner := .of_none rfl
      i2c := by constructor <;> simp
      spi := hs.spi.congr rfl rfl rfl }

/-- `I2C_WRITE` starts in `STARTING` with its buffer in range (R87). -/
theorem Sound.i2cWrite_taken {stop : Bool} {t : State} (hcheck : issueCheck .i2cWrite s = none)
    (h : i2cWrite (latchOp .i2cWrite stop s) = .ok t) : Sound t := by
  obtain ⟨howns, _, hrange⟩ := (issueCheck_i2cWrite s).1 hcheck
  obtain ⟨_, hspi, hprog, hstarted⟩ := hs.at_rest hidle
  cases h
  exact
    { params := hs.params
      memory := hs.memory.congr rfl rfl hs.memory.dev_wf
      operation := .of_i2c (.inl rfl) hspi hprog hstarted
      owner := .of_i2c (.inl rfl) howns
      i2c := by constructor <;> simp [hrange]
      spi := hs.spi.congr rfl rfl rfl }

/-- `I2C_READ` starts in `STARTING` with a byte to receive and its buffer in range (R92). -/
theorem Sound.i2cRead_taken {stop : Bool} {t : State} (hcheck : issueCheck .i2cRead s = none)
    (h : i2cRead (latchOp .i2cRead stop s) = .ok t) : Sound t := by
  obtain ⟨howns, _, hlen, hrange⟩ := (issueCheck_i2cRead s).1 hcheck
  obtain ⟨_, hspi, hprog, hstarted⟩ := hs.at_rest hidle
  have hleft : 1 ≤ s.reg.len.toNat := by bv_omega
  cases h
  exact
    { params := hs.params
      memory := hs.memory.congr rfl rfl hs.memory.dev_wf
      operation := .of_i2c (.inr rfl) hspi hprog hstarted
      owner := .of_i2c (.inr rfl) howns
      i2c := by constructor <;> simp [hrange, hleft]
      spi := hs.spi.congr rfl rfl rfl }

/-- The SPI and flash inits clear the SPI engine and the program (R103, R124). -/
theorem Sound.spiInitState_taken {t : State} {p : Opcode} {stop : Bool} (hfl : t.fl = s.fl ∨ t.fl = (loadProgram [] s).fl)
    (ht : t = { finishOp (spiInitState (latchOp p stop s)) with fl := t.fl }) : Sound t := by
  obtain ⟨hi2c, _, hprog, hstarted⟩ := hs.at_rest hidle
  have hprog' : t.fl.prog = [] := by rcases hfl with hfl | hfl <;> simp [hfl, hprog]
  have hstarted' : t.fl.started = false := by rcases hfl with hfl | hfl <;> simp [hfl, hstarted]
  rw [spiInitState_eq] at ht
  rw [ht]
  exact
    { params := hs.params
      memory := hs.memory.congr rfl rfl (csHigh_dev_wf _ hs.memory.dev_wf)
      operation := .of_idle hi2c rfl hprog' hstarted'
      owner := .of_none rfl
      i2c := hs.i2c.congr rfl rfl
      spi := .of_idle rfl rfl rfl (by simp [hprog']) }

/-- A host transfer over `bufmem` is started with its buffer in range (R104, R105). -/
theorem Sound.startSpi_taken {p : Opcode} {stop : Bool} {d : XferDir} (hp : p = .spiWrite ∨ p = .spiRead)
    (howns : owns .spi s = true) (hrange : s.reg.buf.toNat + s.reg.len.toNat ≤ s.par.bufBytes)
    (hleft : d = .rx → 1 ≤ s.reg.len.toNat) :
    Sound (startSpi d .buf s.reg.buf s.reg.len (latchOp p stop s)) := by
  obtain ⟨hi2c, hspi, hprog, hstarted⟩ := hs.at_rest hidle
  obtain ⟨htx, hrx⟩ := hs.spi.disabled (by simp [hspi])
  have hlive : spiOpLive (startSpi d .buf s.reg.buf s.reg.len (latchOp p stop s)) := by
    simpa [spiOpLive] using hp
  exact
    { params := hs.params
      memory := hs.memory.congr rfl rfl hs.memory.dev_wf
      operation := .of_spi hlive hi2c hprog hstarted
      owner := .of_spi hlive.not_i2c howns
      i2c := hs.i2c.congr rfl rfl
      spi :=
        { txEnabled := by simp [htx]
          rxEnabled := by simp [hrx]
          rxLeft := by simpa using hleft
          waiting := by simp
          inRange := by simpa [spiMemSize] using hrange
          actions := by simp [hprog] } }

/-- `SPI_CS_HIGH` stays live and moves nothing (R112). -/
theorem Sound.spiCsHigh_taken {stop : Bool} (howns : owns .spi s = true) : Sound (latchOp .spiCsHigh stop s) := by
  obtain ⟨hi2c, hspi, hprog, _⟩ := hs.at_rest hidle
  exact
    { params := hs.params
      memory := hs.memory.congr rfl rfl hs.memory.dev_wf
      operation :=
        { idle := fun h => by simp at h
          i2cPhase := fun h => absurd hi2c h
          spiPhase := fun h => absurd hspi h
          program := fun h => absurd hprog h
          started := hs.operation.started }
      owner := .of_spi (by simp [i2cOpLive]) howns
      i2c := hs.i2c.congr rfl rfl
      spi := hs.spi.congr rfl rfl rfl }

/-- A flash command stands at the first action of a program whose actions are in range (R125 to R128). -/
theorem Sound.loadProgram_taken {t : State} {p : Opcode} {stop : Bool} {prog : List Action} {hdr : Header}
    (hp : isFlashOp (some p) = true) (howns : owns .spi s = true) (hactions : ∀ a ∈ prog, actionInRange s.par.bufBytes a)
    (ht : t = { latchOp p stop s with
      fl := { s.fl with hdr := hdr, prog := prog, pc := 0, started := false } }) : Sound t := by
  obtain ⟨hi2c, hspi, _, _⟩ := hs.at_rest hidle
  obtain ⟨htx, hrx⟩ := hs.spi.disabled (by simp [hspi])
  subst ht
  exact
    { params := hs.params
      memory := hs.memory.congr rfl rfl hs.memory.dev_wf
      operation := .of_flash hp hi2c hspi rfl
      owner := .of_spi (flashOpLive.not_i2c hp) howns
      i2c := hs.i2c.congr rfl rfl
      spi := .of_idle hspi htx hrx hactions }

end Commands

end Sys2Proof.Machine
end

section
/-!
PROOFS. Every step keeps soundness, agent by agent: the host, the handlers, the sequencer, the environment and reset, each
through the forms that its steps keep.
-/

namespace Sys2Proof.Machine

/-! ## The host -/

/-- A command taken in a sound state leaves a sound one: the three inits, the two bindings and the commands that only look
end at once; a transfer or a flash command is live with its operands checked. -/
theorem CommandTaken.sound {s t : State} {p : Opcode} {stop : Bool} (h : CommandTaken s p stop t) (hs : Sound s) :
    Sound t := by
  obtain ⟨_, hidle, hcheck, heffect⟩ := h
  have hdev := hs.memory.dev_wf
  cases p with
  | bindTx =>
    obtain ⟨e, rfl⟩ := bindTx_ok heffect
    exact hs.at_rest_of_frame hidle rfl rfl rfl rfl rfl rfl hdev
  | bindRx =>
    obtain ⟨e, rfl⟩ := bindRx_ok heffect
    exact hs.at_rest_of_frame hidle rfl rfl rfl rfl rfl rfl hdev
  | i2cInit => exact hs.i2cInit_taken hidle heffect
  | i2cWrite => exact hs.i2cWrite_taken hidle hcheck heffect
  | i2cRead => exact hs.i2cRead_taken hidle hcheck heffect
  | spiInit =>
    cases heffect
    refine hs.spiInitState_taken hidle (.inl ?_) rfl
    simp [spiInitState]
  | spiWrite =>
    cases heffect
    obtain ⟨howns, hrange⟩ := (issueCheck_spiWrite s).1 hcheck
    exact hs.startSpi_taken hidle (.inl rfl) howns hrange (by simp)
  | spiRead =>
    cases heffect
    obtain ⟨howns, hlen, hrange⟩ := (issueCheck_spiRead s).1 hcheck
    exact hs.startSpi_taken hidle (.inr rfl) howns hrange fun _ => by bv_omega
  | spiBusy =>
    cases heffect
    exact hs.at_rest_of_frame hidle rfl rfl rfl rfl rfl rfl hdev
  | spiCsLow =>
    cases heffect
    exact hs.at_rest_of_frame hidle rfl (by simp) (by simp) (by simp) (by simp) (by simp) (csLow_dev_wf _ hdev)
  | spiCsHigh =>
    cases heffect
    exact hs.spiCsHigh_taken hidle ((issueCheck_spiCsHigh s).1 hcheck)
  | flashInit =>
    cases heffect
    refine hs.spiInitState_taken hidle (.inr ?_) rfl
    simp [spiInitState]
  | flashReadId =>
    cases heffect
    obtain ⟨howns, hrange⟩ := (issueCheck_flashReadId s).1 hcheck
    refine hs.loadProgram_taken hidle rfl howns ?_ rfl
    simp [readIdProgram, actionInRange, hrange]
  | flashRead =>
    cases heffect
    obtain ⟨howns, hlen, hrange⟩ := (issueCheck_flashRead s).1 hcheck
    refine hs.loadProgram_taken hidle rfl howns ?_ rfl
    have hleft : 1 ≤ s.reg.len.toNat := by bv_omega
    simp [readProgram, actionInRange, hrange, hleft]
  | flashWrite =>
    cases heffect
    obtain ⟨howns, hrange⟩ := (issueCheck_flashWrite s).1 hcheck
    refine hs.loadProgram_taken hidle rfl howns ?_ rfl
    simp [writeProgram, actionInRange, hrange]
  | flashBusy =>
    cases heffect
    refine hs.loadProgram_taken hidle rfl ((issueCheck_flashBusy s).1 hcheck) ?_ rfl
    simp [busyProgram, actionInRange]

theorem HostStep.sound {a : HostAccess} {s t : State} (h : HostStep s a t) (hs : Sound s) : Sound t := by
  have hdev := hs.memory.dev_wf
  cases h with
  | ignored => exact hs
  | raises f => exact hs.raiseFault f
  | answers w => exact hs.answerHost w
  | raisesOnRead f => exact (hs.raiseFault f).answerHost 0
  | storesOperands => exact hs.congr rfl rfl rfl rfl rfl rfl rfl hdev
  | storesByte _ hrange _ =>
    exact
      { params := hs.params
        memory := hs.memory.setBufByte hrange _
        operation := hs.operation.congr rfl rfl rfl rfl rfl rfl
        owner := hs.owner.congr rfl rfl
        i2c := hs.i2c.congr rfl rfl
        spi := hs.spi.congr rfl rfl rfl }
  | takesCommand _ _ _ htaken => exact htaken.sound hs

/-! ## The I2C engine -/

/-- A step that moves the I2C engine, and at most the buffer memory beside it, keeps soundness if it keeps the form of the
engine; whether the phase may move is asked of the live operation. -/
theorem Sound.i2c_moves {s t : State} (hs : Sound s) (hlive : t.i2c.phase = s.i2c.phase ∨ i2cOpLive s)
    (hmemory : MemoryForm t) (hi2c : I2cForm t) (hop : t.op.opc = s.op.opc) (harb : t.arb = s.arb)
    (hspi : t.spi = s.spi) (hfl : t.fl = s.fl) (hpar : t.par = s.par) : Sound t where
  params := hpar ▸ hs.params
  memory := hmemory
  operation := by
    rcases hlive with hphase | hlive
    · exact hs.operation.congr hop hphase (by rw [hspi]) (by rw [hfl]) (by rw [hfl]) (by rw [hfl])
    · exact hs.operation.i2c_moves hlive hop (by rw [hspi]) hfl
  owner := hs.owner.congr hop harb
  i2c := hi2c
  spi := hs.spi.congr hspi (by rw [hfl]) hpar

/-- A transfer that is done, or waits for its stop, has no interrupt pending and enabled. -/
theorem I2cForm.settled {s : State} (h : I2cForm s) (hover : s.i2c.done = true ∨ s.i2c.phase = .awaitingStop) :
    s.i2c.nackifg = false ∧ (s.i2c.txifg = true → s.i2c.txie = false) ∧ (s.i2c.rxifg = true → s.i2c.rxie = false) := by
  refine ⟨eq_false_of_ne_true fun hnack => ?_, fun htx => eq_false_of_ne_true fun htxie => ?_,
    fun hrx => eq_false_of_ne_true fun hrxie => ?_⟩
  · obtain ⟨hphase, _, _, _, hdone⟩ := h.nackPending hnack
    rcases hover with hover | hover <;> simp_all
  · have hphase := h.txPending htx htxie
    rcases hover with hover | hover
    · simp [h.txDone hphase hover] at htxie
    · simp [hphase] at hover
  · obtain ⟨hphase, hdone, _⟩ := h.rxPending hrx hrxie
    rcases hover with hover | hover <;> simp_all

/-! ### The handlers (R88, R89, R93) -/

theorem I2cForm.txCompletes {s : State} (h : I2cForm s) (hflag : s.i2c.txifg = true) (hie : s.i2c.txie = true) :
    I2cForm { s with i2c := { s.i2c with ackOk := true, done := true, txie := false } } := by
  have hphase := h.txPending hflag hie
  have hnack : s.i2c.nackifg = false := eq_false_of_ne_true fun hn => by simpa [hflag] using h.nackPending hn
  have hrx : s.i2c.rxifg = true → s.i2c.rxie = true → False := fun h1 h2 => by
    simpa [hphase] using (h.rxPending h1 h2).1
  constructor
  case rxPending => exact fun h1 h2 => (hrx h1 h2).elim
  case oneWay => exact h.oneWay
  case inRange => exact h.inRange
  all_goals simp [hnack]

theorem I2cForm.txLoads {s : State} (h : I2cForm s) (hflag : s.i2c.txifg = true) (hie : s.i2c.txie = true)
    (hparams : ParamsOk s.par) (hrem : s.i2c.rem ≠ 0) (v : Byte) :
    I2cForm { s with
      i2c := { s.i2c with txdata := v, txifg := false, cur := s.i2c.cur + 1, rem := s.i2c.rem - 1 } } := by
  have hphase := h.txPending hflag hie
  have hnack : s.i2c.nackifg = false := eq_false_of_ne_true fun hn => by simpa [hflag] using h.nackPending hn
  have hdir : s.i2c.dir ≠ .rx := fun hd => by simpa [hflag] using (h.oneWay (by simp [hphase])).2 hd
  have hrx : s.i2c.rxifg = true → s.i2c.rxie = true → False := fun h1 h2 => by
    simpa [hphase] using (h.rxPending h1 h2).1
  have hrange := h.inRange (by simp [hphase])
  obtain ⟨_, hsize⟩ := hparams
  constructor
  case rxPending => exact fun h1 h2 => (hrx h1 h2).elim
  case oneWay => exact fun hne => ⟨(h.oneWay hne).1, fun _ => rfl⟩
  case txDone => exact h.txDone
  case inRange =>
    intro _
    simp only
    bv_omega
  all_goals simp [hnack, hdir]

/-- What a pending receive says of the engine: it receives, with a byte left and no NACK or transmit pending. -/
theorem I2cForm.receiving {s : State} (h : I2cForm s) (hflag : s.i2c.rxifg = true) (hie : s.i2c.rxie = true) :
    s.i2c.phase = .receiving ∧ s.i2c.done = false ∧ 1 ≤ s.i2c.rem.toNat ∧ s.i2c.nackifg = false ∧
      s.i2c.cur.toNat + s.i2c.rem.toNat ≤ s.par.bufBytes := by
  obtain ⟨hphase, hdone, hleft⟩ := h.rxPending hflag hie
  refine ⟨hphase, hdone, hleft, eq_false_of_ne_true fun hn => ?_, h.inRange (by simp [hphase])⟩
  simpa [hphase] using (h.nackPending hn).1

theorem I2cForm.rxLast {s t : State} (h : I2cForm s) (hflag : s.i2c.rxifg = true) (hie : s.i2c.rxie = true)
    (hi2c : t.i2c = { s.i2c with rxifg := false, rem := s.i2c.rem - 1, done := true }) (hpar : t.par = s.par) :
    I2cForm t := by
  obtain ⟨hphase, _, hleft, hnack, hrange⟩ := h.receiving hflag hie
  have hoverlap := (h.oneWay (by simp [hphase])).2
  constructor <;> simp only [hi2c, hpar]
  case txPending => exact h.txPending
  case oneWay => exact fun _ => ⟨fun _ => trivial, hoverlap⟩
  case inRange =>
    intro _
    bv_omega
  all_goals simp [hphase, hnack]

theorem I2cForm.rxMore {s t : State} {stopping : Bool} (h : I2cForm s) (hflag : s.i2c.rxifg = true)
    (hie : s.i2c.rxie = true) (hparams : ParamsOk s.par) (hrem : s.i2c.rem - 1 ≠ 0)
    (hi2c : t.i2c = { s.i2c with
      rxifg := false, rem := s.i2c.rem - 1, cur := s.i2c.cur + 1, stopping := stopping }) (hpar : t.par = s.par) :
    I2cForm t := by
  obtain ⟨hphase, _, hleft, hnack, hrange⟩ := h.receiving hflag hie
  have hoverlap := (h.oneWay (by simp [hphase])).2
  obtain ⟨_, hsize⟩ := hparams
  constructor <;> simp only [hi2c, hpar]
  case txPending => exact h.txPending
  case oneWay => exact fun _ => ⟨fun _ => trivial, hoverlap⟩
  case rxLeft =>
    intro _ _ _
    bv_omega
  case inRange =>
    intro _
    bv_omega
  all_goals simp [hphase, hnack]

theorem I2cForm.nackHandled {s : State} (h : I2cForm s) (hflag : s.i2c.nackifg = true) :
    I2cForm { s with i2c := { s.i2c with nackifg := false, done := true, phase := .ackFailed } } := by
  obtain ⟨hphase, _, htx, hrx, _⟩ := h.nackPending hflag
  constructor
  case inRange => exact fun _ => h.inRange (by rcases hphase with hphase | hphase <;> simp [hphase])
  all_goals simp [htx, hrx]

/-! ### The bus events (R95 to R98) -/

theorem I2cForm.txRdy {s : State} (h : I2cForm s) (hen : evI2cTxRdyEnabled s = true) : I2cForm (evI2cTxRdy s) := by
  obtain ⟨_, _, hdir, hphase, _, hnacked, hdone⟩ := (evI2cTxRdyEnabled_iff s).1 hen
  have hne : s.i2c.phase ≠ .idle := by rcases hphase with hphase | hphase <;> simp [hphase]
  have hrx := (h.oneWay hne).1 hdir
  have hnack : s.i2c.nackifg = false := eq_false_of_ne_true fun hn => by simpa [hnacked] using (h.nackPending hn).2.1
  rw [evI2cTxRdy_eq hphase]
  constructor
  case inRange => exact fun _ => h.inRange hne
  all_goals simp [hrx, hnack, hdir, hdone]

theorem I2cForm.nack {s : State} (h : I2cForm s) (hen : evI2cNackEnabled s = true) : I2cForm (evI2cNack s) := by
  obtain ⟨_, _, _, hdone, hway⟩ := (evI2cNackEnabled_iff s).1 hen
  have hflags : (s.i2c.phase = .starting ∨ s.i2c.phase = .transmitting) ∧ s.i2c.txifg = false ∧ s.i2c.rxifg = false := by
    rcases hway with ⟨hdir, hphase, htx⟩ | ⟨hdir, hphase, hrx⟩
    · exact ⟨hphase, htx, (h.oneWay (by rcases hphase with hphase | hphase <;> simp [hphase])).1 hdir⟩
    · exact ⟨.inl hphase, (h.oneWay (by simp [hphase])).2 hdir, hrx⟩
  obtain ⟨hphase, htx, hrx⟩ := hflags
  exact
    { txPending := h.txPending
      rxPending := h.rxPending
      nackPending := fun _ => ⟨hphase, rfl, htx, hrx, hdone⟩
      oneWay := h.oneWay
      txDone := h.txDone
      rxLeft := h.rxLeft
      inRange := h.inRange }

theorem I2cForm.rxByte {s : State} (v : Byte) (h : I2cForm s) (hen : evI2cRxByteEnabled s = true) :
    I2cForm (evI2cRxByte v s) := by
  obtain ⟨_, _, hdir, hphase, _, hnacked, hfinal, hdone⟩ := (evI2cRxByteEnabled_iff s).1 hen
  have hne : s.i2c.phase ≠ .idle := by rcases hphase with hphase | hphase <;> simp [hphase]
  have htx := (h.oneWay hne).2 hdir
  have hleft := h.rxLeft hphase hdir hdone
  have hnack : s.i2c.nackifg = false := eq_false_of_ne_true fun hn => by simpa [hnacked] using (h.nackPending hn).2.1
  rw [evI2cRxByte_eq v hphase hfinal]
  constructor
  case inRange => exact fun _ => h.inRange hne
  all_goals simp [htx, hnack, hdir, hdone, hleft]

theorem I2cForm.stopDone {s : State} (h : I2cForm s) : I2cForm (evI2cStopDone s) where
  txPending := h.txPending
  rxPending := h.rxPending
  nackPending := h.nackPending
  oneWay := h.oneWay
  txDone := h.txDone
  rxLeft := h.rxLeft
  inRange := h.inRange

/-! ### The sequencer (R90, R91, R94) -/

/-- The stop that ends a write is issued (R90). -/
theorem I2cForm.stopIssued {s : State} (h : I2cForm s) (hdone : s.i2c.done = true) (hne : s.i2c.phase ≠ .idle) :
    I2cForm { s with i2c := { s.i2c with stopping := true, phase := .awaitingStop } } := by
  obtain ⟨hnack, htx, hrx⟩ := h.settled (.inl hdone)
  constructor
  case txPending => exact fun h1 h2 => by simp [htx h1] at h2
  case rxPending => exact fun h1 h2 => by simp [hrx h1] at h2
  case oneWay => exact fun _ => h.oneWay hne
  case inRange => exact fun _ => h.inRange hne
  all_goals simp [hnack]

/-- The end of an I2C transfer: the phase is idle and the operation over (R90, R91, R94). -/
theorem Sound.i2c_returns {s : State} (hs : Sound s) (hlive : i2cOpLive s)
    (hover : s.i2c.done = true ∨ s.i2c.phase = .awaitingStop) (res : Results) :
    Sound (finishOp { s with i2c := { s.i2c with phase := .idle }, res := res }) := by
  obtain ⟨hnack, htx, hrx⟩ := hs.i2c.settled hover
  have hprog := hs.operation.prog_nil hlive.not_flash
  have hspi := hs.operation.spi_idle hlive.not_spi hlive.not_flash
  exact
    { params := hs.params
      memory := hs.memory.congr rfl rfl hs.memory.dev_wf
      operation := .of_idle rfl hspi hprog (hs.operation.not_started hprog)
      owner := .of_none rfl
      i2c := by
        constructor
        case txPending => exact fun h1 h2 => by simp [htx h1] at h2
        case rxPending => exact fun h1 h2 => by simp [hrx h1] at h2
        all_goals simp [hnack]
      spi := hs.spi.congr rfl rfl rfl }

/-! ## The SPI engine -/

/-- A step that moves the SPI engine while its phase is not idle, and the memory it writes beside it, keeps soundness if it
keeps the form of the engine. -/
theorem Sound.spi_moves {s t : State} (hs : Sound s) (hphase : s.spi.phase ≠ .idle) (hmemory : MemoryForm t)
    (hspi : SpiForm t) (hop : t.op.opc = s.op.opc) (harb : t.arb = s.arb) (hi2c : t.i2c = s.i2c)
    (hprog : t.fl.prog = s.fl.prog) (hpc : t.fl.pc = s.fl.pc) (hstarted : t.fl.started = s.fl.started)
    (hpar : t.par = s.par) : Sound t where
  params := hpar ▸ hs.params
  memory := hmemory
  operation := hs.operation.spi_moves hphase hop (by rw [hi2c]) hprog hpc hstarted
  owner := hs.owner.congr hop harb
  i2c := hs.i2c.congr hi2c hpar
  spi := hspi

/-! ### The handlers (42_spi.md R107, R108) -/

/-- What an enabled transmit says of the engine. -/
theorem SpiForm.sending {s : State} (h : SpiForm s) (hie : s.spi.txie = true) :
    s.spi.phase = .transferring ∧ s.spi.dir = .tx ∧ s.spi.done = false ∧ s.spi.rxie = false ∧
      s.spi.cur.toNat + s.spi.rem.toNat ≤ spiMemSize s.spi.mem s := by
  obtain ⟨hphase, hdir, hdone⟩ := h.txEnabled hie
  refine ⟨hphase, hdir, hdone, eq_false_of_ne_true fun hrx => ?_, h.inRange (by simp [hphase])⟩
  simpa [hdir] using (h.rxEnabled hrx).2.1

/-- What an enabled receive says of the engine: a byte is left. -/
theorem SpiForm.taking {s : State} (h : SpiForm s) (hie : s.spi.rxie = true) :
    s.spi.phase = .transferring ∧ s.spi.dir = .rx ∧ s.spi.done = false ∧ s.spi.txie = false ∧
      1 ≤ s.spi.rem.toNat ∧ s.spi.cur.toNat + s.spi.rem.toNat ≤ spiMemSize s.spi.mem s := by
  obtain ⟨hphase, hdir, hdone⟩ := h.rxEnabled hie
  have hne : s.spi.phase ≠ .idle := by simp [hphase]
  refine ⟨hphase, hdir, hdone, eq_false_of_ne_true fun htx => ?_, h.rxLeft hne hdir hdone, h.inRange hne⟩
  simpa [hdir] using (h.txEnabled htx).2.1

/-- An enabled interrupt belongs to a transfer. -/
theorem SpiForm.ne_idle {s : State} (h : SpiForm s) (hie : s.spi.txie = true ∨ s.spi.rxie = true) :
    s.spi.phase ≠ .idle := by
  rcases hie with hie | hie
  · simp [(h.txEnabled hie).1]
  · simp [(h.rxEnabled hie).1]

/-- No memory that a cursor indexes has more than 65536 bytes. -/
theorem spiMemSize_le {s : State} (hparams : ParamsOk s.par) (m : SpiMem) : spiMemSize m s ≤ 65536 := by
  obtain ⟨_, hsize⟩ := hparams
  cases m <;> simp [spiMemSize, hsize]

theorem SpiForm.txCompletes {s : State} (h : SpiForm s) (hie : s.spi.txie = true) :
    SpiForm { s with spi := { s.spi with done := true, txie := false } } := by
  obtain ⟨hphase, _, _, hrx, hrange⟩ := h.sending hie
  constructor
  case inRange => exact fun _ => hrange
  case actions => exact h.actions
  all_goals simp [hphase, hrx]

theorem SpiForm.txLoads {s : State} (h : SpiForm s) (hie : s.spi.txie = true) (hparams : ParamsOk s.par)
    (hrem : s.spi.rem ≠ 0) (v : Byte) :
    SpiForm { s with
      spi := { s.spi with txbuf := v, txFull := true, cur := s.spi.cur + 1, rem := s.spi.rem - 1 } } := by
  obtain ⟨hphase, hdir, hdone, hrx, hrange⟩ := h.sending hie
  have hsize := spiMemSize_le hparams s.spi.mem
  constructor
  case inRange =>
    intro _
    change (s.spi.cur + 1).toNat + (s.spi.rem - 1).toNat ≤ spiMemSize s.spi.mem s
    bv_omega
  case actions => exact h.actions
  all_goals simp [hphase, hdir, hdone, hrx]

/-- A byte of a transfer stored in its memory leaves the program, the parameters and the engines alone. -/
theorem dstWrite_frame {m : SpiMem} {i : Nat} {v : Byte} {s t : State} (h : dstWrite m i v s = .ok t) :
    t.op = s.op ∧ t.arb = s.arb ∧ t.i2c = s.i2c ∧ t.fl.prog = s.fl.prog ∧ t.fl.pc = s.fl.pc ∧
      t.fl.started = s.fl.started ∧ t.par = s.par ∧ t.dev = s.dev ∧ t.reg = s.reg ∧ t.epoch = s.epoch := by
  obtain ⟨_, ⟨_, rfl⟩ | ⟨_, g, _, rfl⟩ | ⟨_, rfl⟩⟩ := dstWrite_ok h <;>
    exact ⟨rfl, rfl, rfl, rfl, rfl, rfl, rfl, rfl, rfl, rfl⟩

theorem MemoryForm.dstWrite {m : SpiMem} {i : Nat} {v : Byte} {s t : State} (hs : MemoryForm s)
    (h : dstWrite m i v s = .ok t) : MemoryForm t := by
  obtain ⟨hi, ⟨rfl, rfl⟩ | ⟨_, g, _, rfl⟩ | ⟨_, rfl⟩⟩ := dstWrite_ok h
  · exact hs.setBufByte hi v
  · exact hs.congr rfl rfl hs.dev_wf
  · exact hs.congr rfl rfl hs.dev_wf

theorem spiMemSize_congr {s t : State} (hpar : t.par = s.par) (m : SpiMem) : spiMemSize m t = spiMemSize m s := by
  cases m <;> simp [spiMemSize, hpar]

theorem SpiForm.rxLast {s t : State} (h : SpiForm s) (hie : s.spi.rxie = true)
    (hspi : t.spi = { s.spi with
      rxFull := false, txbuf := 0, txFull := true, rem := s.spi.rem - 1, done := true, rxie := false })
    (hprog : t.fl.prog = s.fl.prog) (hpar : t.par = s.par) : SpiForm t := by
  obtain ⟨hphase, _, _, htx, hleft, hrange⟩ := h.taking hie
  constructor <;> simp only [hspi, hprog, hpar, spiMemSize_congr hpar]
  case inRange =>
    intro _
    bv_omega
  case actions => exact h.actions
  all_goals simp [hphase, htx]

theorem SpiForm.rxMore {s t : State} (h : SpiForm s) (hie : s.spi.rxie = true) (hparams : ParamsOk s.par)
    (hrem : s.spi.rem - 1 ≠ 0)
    (hspi : t.spi = { s.spi with
      rxFull := false, txbuf := 0, txFull := true, rem := s.spi.rem - 1, cur := s.spi.cur + 1 })
    (hprog : t.fl.prog = s.fl.prog) (hpar : t.par = s.par) : SpiForm t := by
  obtain ⟨hphase, hdir, hdone, htx, hleft, hrange⟩ := h.taking hie
  have hsize := spiMemSize_le hparams s.spi.mem
  constructor <;> simp only [hspi, hprog, hpar, spiMemSize_congr hpar]
  case rxLeft =>
    intro _ _ _
    bv_omega
  case inRange =>
    intro _
    bv_omega
  case actions => exact h.actions
  all_goals simp [hphase, hdir, hdone, htx]

/-! ### The sequencer (42_spi.md R106, R109, R112) -/

/-- The go step enables the interrupt of the transfer's direction. -/
theorem SpiForm.go {s : State} (h : SpiForm s) (hphase : s.spi.phase = .waitIdle) : SpiForm (spiGo s) := by
  obtain ⟨htx, hrx⟩ := h.disabled (by simp [hphase])
  have hne : s.spi.phase ≠ .idle := by simp [hphase]
  have hdone := h.waiting hphase
  unfold spiGo
  cases hdir : s.spi.dir with
  | tx =>
    constructor
    case inRange => exact fun _ => h.inRange hne
    case actions => exact h.actions
    all_goals simp [hrx, hdir, hdone]
  | rx =>
    have hleft := h.rxLeft hne hdir hdone
    constructor
    case inRange => exact fun _ => h.inRange hne
    case actions => exact h.actions
    all_goals simp [htx, hdir, hdone, hleft]

theorem SpiForm.done_disabled {s : State} (h : SpiForm s) (hdone : s.spi.done = true) :
    s.spi.txie = false ∧ s.spi.rxie = false :=
  ⟨eq_false_of_ne_true fun htx => by simpa [hdone] using (h.txEnabled htx).2.2,
   eq_false_of_ne_true fun hrx => by simpa [hdone] using (h.rxEnabled hrx).2.2⟩

/-- The finish step ends a host transfer, and leaves a flash transfer to the sequencer. -/
theorem Sound.spiFinish {s : State} (hs : Sound s) (hphase : s.spi.phase = .transferring) (hdone : s.spi.done = true) :
    Sound (spiFinish s) := by
  obtain ⟨htx, hrx⟩ := hs.spi.done_disabled hdone
  have hne : s.spi.phase ≠ .idle := by simp [hphase]
  unfold Machine.spiFinish
  split
  · rename_i hlive
    have hprog := hs.operation.prog_nil (spiOpLive.not_flash hlive)
    exact
      { params := hs.params
        memory := hs.memory.congr rfl rfl hs.memory.dev_wf
        operation :=
          .of_idle (hs.operation.i2c_idle (spiOpLive.not_i2c hlive)) rfl hprog (hs.operation.not_started hprog)
        owner := .of_none rfl
        i2c := hs.i2c.congr rfl rfl
        spi := .of_idle rfl htx hrx hs.spi.actions }
  · exact hs.spi_moves hne (hs.memory.congr rfl rfl hs.memory.dev_wf) (.of_idle rfl htx hrx hs.spi.actions)
      rfl rfl rfl rfl rfl rfl rfl

/-- `SPI_CS_HIGH` ends with the rise of chip select. -/
theorem Sound.csHighFinish {s : State} (hs : Sound s) (hop : s.op.opc = some .spiCsHigh) : Sound (csHighFinish s) := by
  have hi2c : ¬ i2cOpLive s := by simp [i2cOpLive, hop]
  have hspi : ¬ spiOpLive s := by simp [spiOpLive, hop]
  have hflash : ¬ flashOpLive s := by simp [flashOpLive, hop, isFlashOp]
  have hprog := hs.operation.prog_nil hflash
  rw [Machine.csHighFinish, csHigh_self]
  exact
    { params := by simpa using hs.params
      memory := hs.memory.congr (by simp) (by simp) (csHigh_dev_wf _ hs.memory.dev_wf)
      operation := .of_idle (by simpa using hs.operation.i2c_idle hi2c) (by simpa using hs.operation.spi_idle hspi hflash)
        (by simpa using hprog) (by simpa using hs.operation.not_started hprog)
      owner := .of_none (by simp)
      i2c := hs.i2c.congr (by simp) (by simp)
      spi := hs.spi.congr (by simp) (by simp) (by simp) }

/-! ## The flash sequencer (43_flash.md R122, R129) -/

/-- The place in the program moves on where no transfer is started. -/
theorem OperationForm.pc_moves {s t : State} (h : OperationForm s) (hstarted : s.fl.started = false)
    (hopc : t.op.opc = s.op.opc) (hi2c : t.i2c.phase = s.i2c.phase) (hspi : t.spi.phase = s.spi.phase)
    (hprog : t.fl.prog = s.fl.prog) (hstarted' : t.fl.started = s.fl.started) : OperationForm t := by
  constructor
  case idle => simpa only [hopc, hi2c, hspi, hprog] using h.idle
  case i2cPhase => simpa only [i2cOpLive, hopc, hi2c] using h.i2cPhase
  case spiPhase => simpa only [spiOpLive, flashOpLive, hopc, hspi, hstarted'] using h.spiPhase
  case program => simpa only [flashOpLive, hopc, hprog] using h.program
  case started => exact fun hs => by simp [hstarted', hstarted] at hs

/-- An action that runs no transfer is never one that is started. -/
theorem OperationForm.not_started_at {s : State} (h : OperationForm s) {a : Action}
    (hat : s.fl.prog[s.fl.pc]? = some a) (ha : transferAction a = false) : s.fl.started = false := by
  refine eq_false_of_ne_true fun hstarted => ?_
  obtain ⟨b, hb, htransfer⟩ := h.started hstarted
  obtain rfl : a = b := Option.some.inj (hat.symm.trans hb)
  simp [ha] at htransfer

/-- Where the program moves on past an action that runs no transfer, writing chip select and the chip beside it. -/
theorem Sound.pc_moves {s t : State} (hs : Sound s) {a : Action} (hat : s.fl.prog[s.fl.pc]? = some a)
    (ha : transferAction a = false) (hop : t.op = s.op) (harb : t.arb = s.arb) (hi2c : t.i2c = s.i2c)
    (hspi : t.spi = s.spi) (hfl : t.fl = { s.fl with pc := s.fl.pc + 1 }) (hbuf : t.bufmem = s.bufmem)
    (hpar : t.par = s.par) (hdev : t.dev.wf) : Sound t where
  params := hpar ▸ hs.params
  memory := hs.memory.congr hbuf hpar hdev
  operation := hs.operation.pc_moves (hs.operation.not_started_at hat ha) (by rw [hop]) (by rw [hi2c]) (by rw [hspi])
    (by rw [hfl]) (by rw [hfl])
  owner := hs.owner.congr (by rw [hop]) harb
  i2c := hs.i2c.congr hi2c hpar
  spi := hs.spi.congr hspi (by rw [hfl]) hpar

/-- A flash command whose transfer is not started leaves the SPI engine idle. -/
theorem Sound.spi_idle_of_waiting {s : State} (hs : Sound s) (hlive : flashOpLive s) (hwaiting : s.fl.started = false) :
    s.spi.phase = .idle :=
  not_not.1 fun hphase =>
    (hs.operation.spiPhase hphase).elim hlive.not_spi fun ⟨_, hstarted⟩ => by simp [hwaiting] at hstarted

/-- The start of a transfer by an action of a program in range (43_flash.md R116, R120). -/
theorem Sound.transfer_starts {s t : State} (hs : Sound s) {a : Action} {d : XferDir} {m : SpiMem} {start n : Half}
    (hlive : flashOpLive s) (hat : s.fl.prog[s.fl.pc]? = some a) (ha : transferAction a = true)
    (hwaiting : s.fl.started = false) (hrange : start.toNat + n.toNat ≤ spiMemSize m s)
    (hleft : d = .rx → 1 ≤ n.toNat) {hdr : Header}
    (ht : t = markStarted (startSpi d m start n { s with fl := { s.fl with hdr := hdr } })) : Sound t := by
  have hspi := hs.spi_idle_of_waiting hlive hwaiting
  obtain ⟨htx, hrx⟩ := hs.spi.disabled (by simp [hspi])
  subst ht
  exact
    { params := hs.params
      memory := hs.memory.congr rfl rfl hs.memory.dev_wf
      operation :=
        { idle := fun h => absurd h hlive.ne_none
          i2cPhase := fun h => absurd (hs.operation.i2c_idle hlive.not_i2c) h
          spiPhase := fun _ => .inr ⟨hlive, rfl⟩
          program := fun _ => hlive
          started := fun _ => ⟨a, hat, ha⟩ }
      owner := hs.owner.congr rfl rfl
      i2c := hs.i2c.congr rfl rfl
      spi :=
        { txEnabled := by simp [htx]
          rxEnabled := by simp [hrx]
          rxLeft := by simpa using hleft
          waiting := by simp
          inRange := fun _ => hrange
          actions := hs.spi.actions } }

theorem ActionStart.sound {s t : State} {a : Action} (h : ActionStart s a t) (hs : Sound s) (hlive : flashOpLive s)
    (hat : s.fl.prog[s.fl.pc]? = some a) (ha : transferAction a = true) (hwaiting : s.fl.started = false) : Sound t := by
  have hrange := hs.spi.actions a (List.mem_of_getElem? hat)
  cases h with
  | txc c k =>
    have hheader : k.toNat ≤ 4 := hrange
    exact hs.transfer_starts hlive hat ha hwaiting (start := 0) (m := .hdr) (by simpa [spiMemSize] using hheader)
      (by simp) (hdr := { s.fl.hdr with b0 := c }) rfl
  | txb b n => exact hs.transfer_starts hlive hat ha hwaiting (m := .buf) hrange (by simp) (hdr := s.fl.hdr) rfl
  | rxb b n =>
    obtain ⟨hfits, hleft⟩ := hrange
    exact hs.transfer_starts hlive hat ha hwaiting (m := .buf) hfits (fun _ => hleft) (hdr := s.fl.hdr) rfl
  | rxs =>
    exact hs.transfer_starts hlive hat ha hwaiting (m := .sr) (by simp [spiMemSize]) (by simp) (hdr := s.fl.hdr) rfl

theorem ActionStep.sound {s t : State} {a : Action} (h : ActionStep s a t) (hs : Sound s) (hlive : flashOpLive s)
    (hat : s.fl.prog[s.fl.pc]? = some a) : Sound t := by
  cases h with
  | selects =>
    exact hs.pc_moves hat rfl (by simp) (by simp) (by simp) (by simp) (by simp) (by simp) (by simp)
      (csLow_dev_wf _ hs.memory.dev_wf)
  | deselects =>
    exact hs.pc_moves hat rfl (by simp) (by simp) (by simp) (by simp) (by simp) (by simp) (by simp)
      (csHigh_dev_wf _ hs.memory.dev_wf)
  | finishes ha hstarted hphase =>
    exact
      { params := hs.params
        memory := hs.memory.congr rfl rfl hs.memory.dev_wf
        operation := .of_flash hlive (hs.operation.i2c_idle hlive.not_i2c) hphase rfl
        owner := hs.owner.congr rfl rfl
        i2c := hs.i2c.congr rfl rfl
        spi := hs.spi.congr rfl rfl rfl }
  | starts ha hwaiting hstart => exact hstart.sound hs hlive hat ha hwaiting

/-- Completion: the program has ended, so no transfer is started (R129). -/
theorem Sound.flashFinish {s : State} (hs : Sound s) (hlive : flashOpLive s) (hend : s.fl.pc = s.fl.prog.length) :
    Sound (flashFinish s) := by
  have hstarted : s.fl.started = false := by
    refine eq_false_of_ne_true fun hstarted => ?_
    obtain ⟨a, hat, _⟩ := hs.operation.started hstarted
    simp [hend] at hat
  have hspi := hs.spi_idle_of_waiting hlive hstarted
  obtain ⟨htx, hrx⟩ := hs.spi.disabled (by simp [hspi])
  exact
    { params := hs.params
      memory := hs.memory.congr rfl rfl hs.memory.dev_wf
      operation := .of_idle (hs.operation.i2c_idle hlive.not_i2c) hspi rfl rfl
      owner := .of_none rfl
      i2c := hs.i2c.congr rfl rfl
      spi := .of_idle hspi htx hrx (by simp [Machine.flashFinish]) }

/-! ## Every move -/

theorem runSeq_sound {k : SeqStep} {s : State} (hs : Sound s) (hen : seqEnabled k s = true) : Sound (runSeq k s) := by
  have hmemory : MemoryForm s := hs.memory
  cases k with
  | i2cWriteCont =>
    obtain ⟨hop, hdone, hphase, _⟩ := (i2cWriteContEnabled_iff s).1 hen
    cases hstop : s.i2c.sendStop with
    | true =>
      have hne : s.i2c.phase ≠ .idle := by rcases hphase with hphase | hphase <;> simp [hphase]
      rw [runSeq, i2cWriteCont_stop hstop]
      exact hs.i2c_moves (.inr (.inl hop)) (hmemory.congr rfl rfl hmemory.dev_wf) (hs.i2c.stopIssued hdone hne)
        rfl rfl rfl rfl rfl
    | false =>
      rw [runSeq, i2cWriteCont_return hstop]
      exact hs.i2c_returns (.inl hop) (.inl hdone) _
  | i2cWriteFinish =>
    obtain ⟨hop, hphase, _⟩ := (i2cWriteFinishEnabled_iff s).1 hen
    exact hs.i2c_returns (.inl hop) (.inr hphase) _
  | i2cReadFinish =>
    obtain ⟨hop, hdone, _⟩ := (i2cReadFinishEnabled_iff s).1 hen
    exact hs.i2c_returns (.inr hop) (.inl hdone) s.res
  | spiGo =>
    obtain ⟨hphase, _⟩ := (spiGoEnabled_iff s).1 hen
    have hform := hs.spi.go hphase
    have hne : s.spi.phase ≠ .idle := by simp [hphase]
    simp only [runSeq]
    unfold spiGo at hform ⊢
    split at hform
    all_goals exact hs.spi_moves hne (hmemory.congr rfl rfl hmemory.dev_wf) hform rfl rfl rfl rfl rfl rfl rfl
  | spiFinish =>
    obtain ⟨hphase, hdone, _⟩ := (spiFinishEnabled_iff s).1 hen
    exact hs.spiFinish hphase hdone
  | csHighFinish =>
    obtain ⟨hop, _⟩ := (csHighFinishEnabled_iff s).1 hen
    exact hs.csHighFinish hop
  | flashStep =>
    obtain ⟨t, ht⟩ := Option.isSome_iff_exists.1 hen
    obtain ⟨hlive, _, a, hat, hstep⟩ := flashStep?_some ht
    simpa [runSeq, ht] using hstep.sound hs hlive hat
  | flashFinish =>
    obtain ⟨hop, hend, _⟩ := (flashFinishEnabled_iff s).1 hen
    exact hs.flashFinish ((isFlashOp_iff _).2 hop) hend

theorem runEnv_sound {e : EnvEvent} {s : State} (hs : Sound s) (hen : envEnabled e s = true) : Sound (runEnv e s) := by
  have hmemory : MemoryForm s := hs.memory
  cases e with
  | i2cTxRdy =>
    obtain ⟨_, _, _, hphase, _⟩ := (evI2cTxRdyEnabled_iff s).1 hen
    have hlive := hs.operation.i2cPhase (by rcases hphase with hphase | hphase <;> simp [hphase])
    exact hs.i2c_moves (.inr hlive) (hmemory.congr rfl rfl hmemory.dev_wf) (hs.i2c.txRdy hen) rfl rfl rfl rfl rfl
  | i2cNack =>
    exact hs.i2c_moves (.inl rfl) (hmemory.congr rfl rfl hmemory.dev_wf) (hs.i2c.nack hen) rfl rfl rfl rfl rfl
  | i2cRxByte v =>
    obtain ⟨_, _, _, hphase, _⟩ := (evI2cRxByteEnabled_iff s).1 hen
    have hlive := hs.operation.i2cPhase (by rcases hphase with hphase | hphase <;> simp [hphase])
    exact hs.i2c_moves (.inr hlive) (hmemory.congr rfl rfl hmemory.dev_wf) (hs.i2c.rxByte v hen) rfl rfl rfl rfl rfl
  | i2cStopDone =>
    exact hs.i2c_moves (.inl rfl) (hmemory.congr rfl rfl hmemory.dev_wf) hs.i2c.stopDone rfl rfl rfl rfl rfl
  | spiLoad =>
    exact
      { params := hs.params
        memory := hmemory.congr rfl rfl hmemory.dev_wf
        operation := hs.operation.congr rfl rfl rfl rfl rfl rfl
        owner := hs.owner.congr rfl rfl
        i2c := hs.i2c.congr rfl rfl
        spi := hs.spi.datapath rfl rfl rfl }
  | spiShiftDone line =>
    simp only [runEnv, evSpiShiftDone]
    rw [chipShift_self]
    exact
      { params := by simpa using hs.params
        memory := hmemory.congr (by simp) (by simp) (chipShift_dev_wf _ hmemory.dev_wf)
        operation := hs.operation.congr (by simp) (by simp) rfl (by simp) (by simp) (by simp)
        owner := hs.owner.congr (by simp) (by simp)
        i2c := hs.i2c.congr (by simp) (by simp)
        spi := hs.spi.datapath rfl (by simp) (by simp) }
  | eraseDelay =>
    obtain ⟨_, hat, _⟩ := (evEraseDelayEnabled_iff s).1 hen
    exact hs.pc_moves hat rfl rfl rfl rfl rfl rfl rfl rfl hmemory.dev_wf
  | flashReady => exact hs.congr rfl rfl rfl rfl rfl rfl rfl hmemory.dev_wf
  | flashPowerCycle wel wip => exact hs.congr rfl rfl rfl rfl rfl rfl rfl hmemory.dev_wf

/-- A handler's step from a sound state that has its source pending and enabled. -/
theorem HandlerStep.sound {src : Source} {s t : State} (h : HandlerStep s src t) (hs : Sound s)
    (hpending : sourcePending src s = true) : Sound t := by
  have hmemory : MemoryForm s := hs.memory
  cases h with
  | i2cTxCompletes =>
    obtain ⟨hflag, hie⟩ := Bool.and_eq_true_iff.1 hpending
    exact hs.i2c_moves (.inl rfl) (hmemory.congr rfl rfl hmemory.dev_wf) (hs.i2c.txCompletes hflag hie)
      rfl rfl rfl rfl rfl
  | i2cTxLoads hrem =>
    obtain ⟨hflag, hie⟩ := Bool.and_eq_true_iff.1 hpending
    exact hs.i2c_moves (.inl rfl) (hmemory.congr rfl rfl hmemory.dev_wf) (hs.i2c.txLoads hflag hie hs.params hrem _)
      rfl rfl rfl rfl rfl
  | i2cRxLast hcur =>
    obtain ⟨hflag, hie⟩ := Bool.and_eq_true_iff.1 hpending
    exact hs.i2c_moves (.inl rfl) (hmemory.setBufByte hcur _) (hs.i2c.rxLast hflag hie rfl rfl) rfl rfl rfl rfl rfl
  | i2cRxMore hcur hrem =>
    obtain ⟨hflag, hie⟩ := Bool.and_eq_true_iff.1 hpending
    exact hs.i2c_moves (.inl rfl) (hmemory.setBufByte hcur _) (hs.i2c.rxMore hflag hie hs.params hrem rfl rfl)
      rfl rfl rfl rfl rfl
  | i2cNack =>
    obtain ⟨hflag, _⟩ := Bool.and_eq_true_iff.1 hpending
    obtain ⟨hphase, _⟩ := hs.i2c.nackPending hflag
    have hlive := hs.operation.i2cPhase (by rcases hphase with hphase | hphase <;> simp [hphase])
    exact hs.i2c_moves (.inr hlive) (hmemory.congr rfl rfl hmemory.dev_wf) (hs.i2c.nackHandled hflag)
      rfl rfl rfl rfl rfl
  | spiTxCompletes =>
    obtain ⟨_, hie⟩ := Bool.and_eq_true_iff.1 hpending
    exact hs.spi_moves (hs.spi.ne_idle (.inl hie)) (hmemory.congr rfl rfl hmemory.dev_wf) (hs.spi.txCompletes hie)
      rfl rfl rfl rfl rfl rfl rfl
  | spiTxLoads hrem =>
    obtain ⟨_, hie⟩ := Bool.and_eq_true_iff.1 hpending
    exact hs.spi_moves (hs.spi.ne_idle (.inl hie)) (hmemory.congr rfl rfl hmemory.dev_wf)
      (hs.spi.txLoads hie hs.params hrem _) rfl rfl rfl rfl rfl rfl rfl
  | spiRxLast hwrite =>
    obtain ⟨_, hie⟩ := Bool.and_eq_true_iff.1 hpending
    obtain ⟨hop, harb, hi2c, hprog, hpc, hstarted, hpar, _⟩ := dstWrite_frame hwrite
    have hwritten := hmemory.dstWrite hwrite
    exact hs.spi_moves (hs.spi.ne_idle (.inr hie)) (hwritten.congr rfl rfl hwritten.dev_wf)
      (hs.spi.rxLast hie rfl hprog hpar) (by rw [hop]) harb hi2c hprog hpc hstarted hpar
  | spiRxMore hwrite hrem =>
    obtain ⟨_, hie⟩ := Bool.and_eq_true_iff.1 hpending
    obtain ⟨hop, harb, hi2c, hprog, hpc, hstarted, hpar, _⟩ := dstWrite_frame hwrite
    have hwritten := hmemory.dstWrite hwrite
    exact hs.spi_moves (hs.spi.ne_idle (.inr hie)) (hwritten.congr rfl rfl hwritten.dev_wf)
      (hs.spi.rxMore hie hs.params hrem rfl hprog hpar) (by rw [hop]) harb hi2c hprog hpc hstarted hpar

theorem isrEnabled_iff (src : Source) (s : State) :
    isrEnabled src s = true ↔ s.fault = false ∧ sourcePending src s = true ∧ sourceSlot src s ≠ none := by
  simp [isrEnabled, and_assoc, Option.isSome_iff_ne_none]

/-- The reset values are sound with any parameters in range, and with the flash chip and the model's own fields as they
are. -/
theorem Sound.of_reset {p : Params} (hp : ParamsOk p) {d : FlashChip} (hd : d.wf) (rdata : Option Word) (epoch : Nat)
    (moves : List Move) (draws : Nat) :
    Sound { State.reset with
      par := p, dev := d, rdata := rdata, epoch := epoch, moves := moves, draws := draws } where
  params := hp
  memory := ⟨reset_memory_wf.1, by simp [State.reset], hd⟩
  operation := .of_idle rfl rfl rfl rfl
  owner := .of_none rfl
  i2c := by constructor <;> simp [State.reset, I2cState.reset]
  spi := .of_idle rfl rfl rfl (by simp [State.reset, FlashSeq.reset])

theorem runMove_sound {m : Move} {s t : State} (hs : Sound s) (hen : moveEnabled m s = true)
    (h : runMove m s = .next t) : Sound t := by
  cases m with
  | host a => exact (hostAccess_hostStep h).sound hs
  | seq k =>
    cases h
    exact runSeq_sound hs hen
  | isr src =>
    obtain ⟨_, hpending, _⟩ := (isrEnabled_iff src s).1 hen
    rcases dispatchIsr_cases h with hhandler | ⟨_, rfl⟩
    · exact hhandler.sound hs hpending
    · exact hs.raiseFault _
  | env e =>
    cases h
    exact runEnv_sound hs hen
  | reset =>
    cases h
    exact .of_reset hs.params (csHigh_dev_wf s hs.memory.dev_wf) _ _ _ _

theorem performMove_sound {m : Move} {s t : State} (hs : Sound s) (h : performMove m s = .next t) : Sound t := by
  obtain ⟨_, rfl⟩ | ⟨hen, hrun⟩ := performMove_cases h
  · exact hs
  · exact runMove_sound hs hen hrun

/-- Taking a move off the list, or drawing one, changes no form. -/
theorem Sound.with_moves {s : State} (hs : Sound s) (moves : List Move) (draws : Nat) :
    Sound { s with moves := moves, draws := draws } :=
  hs.congr rfl rfl rfl rfl rfl rfl rfl hs.memory.dev_wf

/-- Settles O55: whichever move a step takes, `performMove_sound`. -/
theorem everyStepKeepsSoundness : Obligations.EveryStepKeepsSoundness := by
  intro s t hs h
  obtain ⟨m, moves, draws, hstep, _⟩ := step_eq s
  exact performMove_sound (hs.with_moves moves draws) (hstep.symm.trans h)

/-- Settles O54: the reset values are sound with any parameters in range. -/
theorem startIsSound : Obligations.StartIsSound := fun _ ms hp =>
  .of_reset hp reset_memory_wf.2 none 0 ms 0

end Sys2Proof.Machine
end

section
/-!
PROOFS. Dispatch and the handlers (40_arbiter.md R77 to R79, 41_i2c.md R88, R89, R93, 42_spi.md R107, R108), and what is
said of a frozen engine. A handler's claim is its dispatch, its equation, and what a sound state knows of a pending source.
-/

namespace Sys2Proof.Machine

/-! ## Dispatch -/

theorem step_isr_disabled {src : Source} {s : State} (h : isrEnabled src s = false) :
    step (s.queued (.isr src)) = .next s := performMove_disabled h

/-- A pending source on a bound vector is dispatched. -/
theorem step_isr_dispatched {src : Source} {s : State} (hclear : s.fault = false) (hpending : sourcePending src s = true)
    (hbound : sourceSlot src s ≠ none) : step (s.queued (.isr src)) = dispatchIsr src s :=
  performMove_enabled (m := .isr src) ((isrEnabled_iff src s).2 ⟨hclear, hpending, hbound⟩)

theorem step_isr_runs {src : Source} {s : State} (hclear : s.fault = false) (hpending : sourcePending src s = true)
    (hslot : sourceSlot src s = some (sourceEngine src)) : step (s.queued (.isr src)) = runHandler src s := by
  rw [step_isr_dispatched hclear hpending (by simp [hslot]), dispatchIsr, if_pos hslot]

/-- Settles O36: the guard of dispatch asks for the flag and a bound vector, dispatch for the vector's engine. -/
theorem dispatchFollowsTheVectors : Obligations.DispatchFollowsTheVectors := by
  intro s src hclear
  refine ⟨fun hnot => ?_, fun _ hunbound => ?_, fun hpending e hslot hother => ?_, fun hpending hslot => ?_⟩
  · exact step_isr_disabled (by simp [isrEnabled, hnot])
  · exact step_isr_disabled (by simp [isrEnabled, hunbound])
  · have hcross : sourceSlot src s ≠ some (sourceEngine src) := by simpa [hslot] using hother
    rw [step_isr_dispatched hclear hpending (by simp [hslot]), dispatchIsr, if_neg hcross, raiseFault_of_clear hclear]
    rfl
  · exact step_isr_runs hclear hpending hslot

/-! ## The I2C handlers -/

/-- Settles O31: the handler's two equations, and what a sound state knows of a pending transmit. -/
theorem i2cTransmitHandlerRuns : Obligations.I2cTransmitHandlerRuns := by
  intro s hflag hie hslot hclear
  have hruns : step (s.queued (.isr .i2cTx)) = i2cTxHandler s :=
    step_isr_runs (src := .i2cTx) hclear (Bool.and_eq_true_iff.2 ⟨hflag, hie⟩) hslot
  refine ⟨fun hrem => hruns.trans (i2cTxHandler_completes hrem),
    fun hrem hcur => hruns.trans (i2cTxHandler_loads hrem hcur), fun hs => ?_⟩
  have hphase := hs.i2c.txPending hflag hie
  have hrange := hs.i2c.inRange (by simp [hphase])
  exact ⟨hphase, fun hrem => by bv_omega⟩

/-- Settles O32: the handler has one effect. -/
theorem i2cNackHandlerRuns : Obligations.I2cNackHandlerRuns := fun _ hflag hie hslot hclear =>
  step_isr_runs (src := .i2cNack) hclear (Bool.and_eq_true_iff.2 ⟨hflag, hie⟩) hslot

/-- The state after a receive handler whose cursor is in range. -/
theorem i2cRxHandler_stores {s : State} (hcur : s.i2c.cur.toNat < s.par.bufBytes) :
    i2cRxHandler s = .next { setBufByte s s.i2c.cur.toNat s.i2c.rxbuf with
      i2c :=
        if s.i2c.rem - 1 = 0 then { s.i2c with rxifg := false, rem := s.i2c.rem - 1, done := true }
        else if s.i2c.rem - 1 = 1 then
          { s.i2c with rxifg := false, rem := s.i2c.rem - 1, cur := s.i2c.cur + 1, stopping := true }
        else { s.i2c with rxifg := false, rem := s.i2c.rem - 1, cur := s.i2c.cur + 1 } } := by
  by_cases hlast : s.i2c.rem - 1 = 0
  · rw [i2cRxHandler_last hcur hlast, if_pos hlast]
  · rw [i2cRxHandler_more hcur hlast, if_neg hlast]
    split <;> rfl

/-- Settles O33: the byte goes to the cursor, and a sound state knows the cursor is in range. -/
theorem i2cReceiveHandlerRuns : Obligations.I2cReceiveHandlerRuns := by
  intro s hflag hie hslot hclear
  have hruns : step (s.queued (.isr .i2cRx)) = i2cRxHandler s :=
    step_isr_runs (src := .i2cRx) hclear (Bool.and_eq_true_iff.2 ⟨hflag, hie⟩) hslot
  refine ⟨fun hcur => ⟨_, hruns.trans (i2cRxHandler_stores hcur), rfl, ?_, fun x hx => ?_⟩, fun hs => ?_⟩
  · exact bufByte_setBufByte_same s s.i2c.cur.toNat s.i2c.rxbuf
  · exact bufByte_setBufByte_other s s.i2c.rxbuf hx
  · obtain ⟨hphase, _, hleft, _, hrange⟩ := hs.i2c.receiving hflag hie
    exact ⟨hphase, by bv_omega, by omega⟩

/-! ## The SPI handlers -/

/-- Settles O34: the handler's two equations; in a sound state the cursor is in the memory it indexes. -/
theorem spiTransmitHandlerRuns : Obligations.SpiTransmitHandlerRuns := by
  intro s hempty hie hslot hclear
  have hruns : step (s.queued (.isr .spiTx)) = spiTxHandler s :=
    step_isr_runs (src := .spiTx) hclear (by simp [sourcePending, hempty, hie]) hslot
  refine ⟨fun hrem => hruns.trans (spiTxHandler_completes hrem),
    fun hrem v hread => hruns.trans (spiTxHandler_loads hrem hread), fun hs => ?_⟩
  obtain ⟨hphase, hdir, _, _, hrange⟩ := hs.spi.sending hie
  exact ⟨hphase, hdir, fun hrem => srcRead_of_lt (by bv_omega)⟩

/-- Settles O35: the handler's two equations; in a sound state a byte is left and the cursor is in its memory. -/
theorem spiReceiveHandlerRuns : Obligations.SpiReceiveHandlerRuns := by
  intro s hfull hie hslot hclear
  have hruns : step (s.queued (.isr .spiRx)) = spiRxHandler s :=
    step_isr_runs (src := .spiRx) hclear (Bool.and_eq_true_iff.2 ⟨hfull, hie⟩) hslot
  refine ⟨fun t hwrite => ⟨fun hlast => ?_, fun hmore => hruns.trans (spiRxHandler_more hwrite hmore)⟩, fun hs => ?_⟩
  · rw [hruns, spiRxHandler_last hwrite hlast, hlast]
  · obtain ⟨hphase, hdir, _, _, hleft, hrange⟩ := hs.spi.taking hie
    exact ⟨hphase, hdir, by bv_omega, dstWrite_of_lt (by omega)⟩

/-! ## The frozen engine (60_exceptions.md R143) -/

theorem seqEnabled_frozen {s : State} (h : s.fault = true) (k : SeqStep) : seqEnabled k s = false := by
  cases k with
  | i2cWriteCont => simp [seqEnabled, i2cWriteContEnabled, h]
  | i2cWriteFinish => simp [seqEnabled, i2cWriteFinishEnabled, h]
  | i2cReadFinish => simp [seqEnabled, i2cReadFinishEnabled, h]
  | spiGo => simp [seqEnabled, spiGoEnabled, h]
  | spiFinish => simp [seqEnabled, spiFinishEnabled, h]
  | csHighFinish => simp [seqEnabled, csHighFinishEnabled, h]
  | flashStep => simp [seqEnabled, flashStep?, h]
  | flashFinish => simp [seqEnabled, flashFinishEnabled, h]

theorem isrEnabled_frozen {s : State} (h : s.fault = true) (src : Source) : isrEnabled src s = false := by
  simp [isrEnabled, h]

/-- An event that a frozen engine still lets happen is one of the flash chip's own. -/
theorem envEnabled_frozen {s : State} (h : s.fault = true) (e : EnvEvent) :
    envEnabled e s = false ∨ e = .flashReady ∨ ∃ wel wip, e = .flashPowerCycle wel wip := by
  cases e with
  | i2cTxRdy => exact .inl (by simp [envEnabled, evI2cTxRdyEnabled, i2cBusLive, h])
  | i2cNack => exact .inl (by simp [envEnabled, evI2cNackEnabled, i2cBusLive, h])
  | i2cRxByte v => exact .inl (by simp [envEnabled, evI2cRxByteEnabled, i2cBusLive, h])
  | i2cStopDone => exact .inl (by simp [envEnabled, evI2cStopDoneEnabled, i2cBusLive, h])
  | spiLoad => exact .inl (by simp [envEnabled, evSpiLoadEnabled, spiBusLive, h])
  | spiShiftDone line => exact .inl (by simp [envEnabled, evSpiShiftDoneEnabled, spiBusLive, h])
  | eraseDelay => exact .inl (by simp [envEnabled, evEraseDelayEnabled, h])
  | flashReady => exact .inr (.inl rfl)
  | flashPowerCycle wel wip => exact .inr (.inr ⟨wel, wip, rfl⟩)

theorem step_write_buf (s : State) (w : Word) :
    step (s.queued (.host { dir := .write, bits := 32, off := 0x004, data := w })) =
      .next { s with reg := { s.reg with buf := w.extractLsb' 0 16 } } := rfl

theorem step_write_len (s : State) (w : Word) :
    step (s.queued (.host { dir := .write, bits := 32, off := 0x008, data := w })) =
      .next { s with reg := { s.reg with len := w.extractLsb' 0 16 } } := rfl

theorem step_write_addr (s : State) (w : Word) :
    step (s.queued (.host { dir := .write, bits := 32, off := 0x00C, data := w })) =
      .next { s with reg := { s.reg with addr := w.extractLsb' 0 24 } } := rfl

/-- Settles O44: each access is its own register's. -/
theorem hostRegistersReadAndWrite : Obligations.HostRegistersReadAndWrite := fun s w =>
  ⟨rfl, rfl, rfl, rfl, rfl, step_write_buf s w, step_write_len s w, step_write_addr s w, rfl⟩

/-- Settles O43: every guard but those of the flash chip's events asks for no fault. -/
theorem frozenEngineStandsStill : Obligations.FrozenEngineStandsStill := by
  intro s hfrozen
  refine ⟨fun w => (step_commandMove w s).trans (writeCmd_frozen hfrozen),
    fun k => performMove_disabled (m := .seq k) (seqEnabled_frozen hfrozen k),
    fun src => step_isr_disabled (isrEnabled_frozen hfrozen src), fun v e he => ?_,
    fun w => ⟨step_write_buf s w, step_write_len s w, step_write_addr s w⟩⟩
  refine performMove_disabled (m := .env e) ((envEnabled_frozen hfrozen e).resolve_right ?_)
  rintro (rfl | ⟨wel, wip, rfl⟩) <;> simp at he

/-! ## The reachable states (10_state.md R34) -/

theorem Reachable.sound {s : State} (h : Reachable s) : Sound s := by
  induction h with
  | start p ms hp => exact startIsSound p ms hp
  | next s t _ hstep ih => exact everyStepKeepsSoundness s t ih hstep

/-- Settles O58: reachable states are sound, and the rest is the form of the operation and the guards. -/
theorem reachableStatesKeepR34 : Obligations.ReachableStatesKeepR34 := by
  intro s hreach
  have hform := hreach.sound.operation
  refine ⟨hform.idle, hform.i2cPhase, fun hphase => ?_, fun hfrozen => ⟨seqEnabled_frozen hfrozen,
    isrEnabled_frozen hfrozen, fun e hen => (envEnabled_frozen hfrozen e).resolve_left ?_⟩⟩
  · rcases hform.spiPhase hphase with (hop | hop) | ⟨hflash, _⟩
    · exact .inl hop
    · exact .inr (.inl hop)
    · exact .inr (.inr ((isFlashOp_iff _).1 hflash))
  · exact ne_false_of_eq_true hen

/-! ## A pending source finds its engine (40_arbiter.md R79) -/

theorem Sound.i2cOwns_of_phase {s : State} (hs : Sound s) (hphase : s.i2c.phase ≠ .idle) : owns .i2c s = true :=
  hs.owner.i2cOwns (hs.operation.i2cPhase hphase)

theorem Sound.spiOwns_of_phase {s : State} (hs : Sound s) (hphase : s.spi.phase ≠ .idle) : owns .spi s = true :=
  hs.owner.spiOwns ((hs.operation.spiPhase hphase).imp_right And.left)

/-- A pending source belongs to the engine that owns the bus. -/
theorem Sound.owns_of_pending {s : State} (hs : Sound s) {src : Source} (hpending : sourcePending src s = true) :
    owns (sourceEngine src) s = true := by
  cases src with
  | i2cTx =>
    obtain ⟨hflag, hie⟩ := Bool.and_eq_true_iff.1 hpending
    exact hs.i2cOwns_of_phase (by simp [hs.i2c.txPending hflag hie])
  | i2cRx =>
    obtain ⟨hflag, hie⟩ := Bool.and_eq_true_iff.1 hpending
    exact hs.i2cOwns_of_phase (by simp [(hs.i2c.rxPending hflag hie).1])
  | i2cNack =>
    obtain ⟨hflag, _⟩ := Bool.and_eq_true_iff.1 hpending
    exact hs.i2cOwns_of_phase (by rcases (hs.i2c.nackPending hflag).1 with hphase | hphase <;> simp [hphase])
  | spiTx =>
    obtain ⟨_, hie⟩ := Bool.and_eq_true_iff.1 hpending
    exact hs.spiOwns_of_phase (hs.spi.ne_idle (.inl hie))
  | spiRx =>
    obtain ⟨_, hie⟩ := Bool.and_eq_true_iff.1 hpending
    exact hs.spiOwns_of_phase (hs.spi.ne_idle (.inr hie))

theorem Sound.slot_of_pending {s : State} (hs : Sound s) {src : Source} (hpending : sourcePending src s = true) :
    sourceSlot src s = some (sourceEngine src) := by
  obtain ⟨_, htx, hrx⟩ := (owns_iff _ s).1 (hs.owns_of_pending hpending)
  cases src with
  | i2cTx | spiTx => exact htx
  | i2cRx | i2cNack | spiRx => exact hrx

/-- In a sound state only a host access raises a fault. -/
theorem Sound.faults_by_host {m : Move} {s t : State} (hs : Sound s) (h : step (s.queued m) = .next t)
    (hclear : s.fault = false) (hfault : t.fault = true) : ∃ a, m = .host a := by
  have hraised : ¬ KeepsFault s t := fun hkeeps => by simp [hkeeps.1, hclear] at hfault
  rw [step_queued] at h
  obtain ⟨_, rfl⟩ | ⟨hen, hrun⟩ := performMove_cases h
  · exact absurd ⟨rfl, rfl⟩ hraised
  cases m with
  | host a => exact ⟨a, rfl⟩
  | seq k =>
    cases hrun
    exact absurd (runSeq_keepsFault k s) hraised
  | isr src =>
    obtain ⟨_, hpending, _⟩ := (isrEnabled_iff src s).1 hen
    rw [runMove, dispatchIsr, if_pos (hs.slot_of_pending hpending)] at hrun
    exact absurd (runHandler_keepsFault hrun) hraised
  | env e =>
    cases hrun
    exact absurd (runEnv_keepsFault e s) hraised
  | reset =>
    cases hrun
    cases hfault

/-- Settles O57: a pending source belongs to the owner of the bus, so its dispatch runs its handler. -/
theorem pendingSourceFindsItsEngine : Obligations.PendingSourceFindsItsEngine := by
  intro s hs
  refine ⟨fun src hpending => ?_, fun m t h hclear hfault => hs.faults_by_host h hclear hfault⟩
  obtain ⟨_, htx, hrx⟩ := (owns_iff _ s).1 (hs.owns_of_pending hpending)
  exact ⟨htx, hrx⟩

/-! ## Progress (20_memory.md R36, 60_exceptions.md R139) -/

theorem writeCmd_next (w : Word) (s : State) : ∃ t, writeCmd w s = .next t := by
  unfold writeCmd
  split
  · exact ⟨_, rfl⟩
  · split
    · exact ⟨_, rfl⟩
    · obtain ⟨p, _, _, hinstr⟩ := decode_cmd32_ok ‹_›
      rw [exec_command hinstr]
      exact issue_next _ _ _ s

theorem regWrite?_next {off : Nat} {w : Word} {s : State} {o : Host.Outcome State Fault Refusal}
    (h : regWrite? off w s = some o) : ∃ t, o = .next t := by
  unfold regWrite? at h
  split at h
  · cases h
    exact writeCmd_next w s
  · repeat' split at h
    all_goals cases h
    all_goals exact ⟨_, rfl⟩

theorem regAccess_next (a : HostAccess) (s : State) : ∃ t, regAccess a s = .next t := by
  unfold regAccess
  split
  · exact ⟨_, rfl⟩
  · split
    · split <;> exact ⟨_, rfl⟩
    · split
      · exact regWrite?_next ‹_›
      · exact ⟨_, rfl⟩

/-- A host access has a next state below the end of the window, and is refused above it. -/
theorem hostAccess_outcome (a : HostAccess) (s : State) :
    (∃ t, hostAccess a s = .next t) ∧ a.off < windowBase + s.par.bufBytes ∨
      hostAccess a s = .refused .outsideEngine ∧ windowBase + s.par.bufBytes ≤ a.off := by
  by_cases hregs : a.off < windowBase
  · exact .inl ⟨by rw [hostAccess_registers hregs]; exact regAccess_next a s, by omega⟩
  · by_cases hwindow : a.off < windowBase + s.par.bufBytes
    · exact .inl ⟨⟨_, hostAccess_window (Nat.not_lt.1 hregs) hwindow⟩, hwindow⟩
    · exact .inr ⟨by simp [hostAccess, hregs, hwindow], Nat.not_lt.1 hwindow⟩

/-- In a sound state the handler of a pending source indexes inside its memory. -/
theorem Sound.runHandler_next {src : Source} {s : State} (hs : Sound s) (hpending : sourcePending src s = true) :
    ∃ t, runHandler src s = .next t := by
  cases src with
  | i2cTx =>
    obtain ⟨hflag, hie⟩ := Bool.and_eq_true_iff.1 hpending
    by_cases hrem : s.i2c.rem = 0
    · exact ⟨_, i2cTxHandler_completes hrem⟩
    · have hrange := hs.i2c.inRange (by simp [hs.i2c.txPending hflag hie])
      exact ⟨_, i2cTxHandler_loads hrem (by bv_omega)⟩
  | i2cRx =>
    obtain ⟨hflag, hie⟩ := Bool.and_eq_true_iff.1 hpending
    obtain ⟨_, _, hleft, _, hrange⟩ := hs.i2c.receiving hflag hie
    exact ⟨_, i2cRxHandler_stores (by omega)⟩
  | i2cNack => exact ⟨_, rfl⟩
  | spiTx =>
    obtain ⟨_, hie⟩ := Bool.and_eq_true_iff.1 hpending
    obtain ⟨_, _, _, _, hrange⟩ := hs.spi.sending hie
    by_cases hrem : s.spi.rem = 0
    · exact ⟨_, spiTxHandler_completes hrem⟩
    · obtain ⟨v, hread⟩ := srcRead_of_lt (s := s) (m := s.spi.mem) (i := s.spi.cur.toNat) (by bv_omega)
      exact ⟨_, spiTxHandler_loads hrem hread⟩
  | spiRx =>
    obtain ⟨_, hie⟩ := Bool.and_eq_true_iff.1 hpending
    obtain ⟨_, _, _, _, hleft, hrange⟩ := hs.spi.taking hie
    obtain ⟨t, hwrite⟩ := dstWrite_of_lt (s := s) (m := s.spi.mem) (i := s.spi.cur.toNat) (v := s.spi.rxbuf) (by omega)
    by_cases hlast : s.spi.rem - 1 = 0
    · exact ⟨_, spiRxHandler_last hwrite hlast⟩
    · exact ⟨_, spiRxHandler_more hwrite hlast⟩

/-- A move from a sound state has a next state, unless it is a host access above the window, which is refused. -/
theorem Sound.performMove_outcome {s : State} (hs : Sound s) (m : Move) :
    ((∃ t, performMove m s = .next t) ∧ ¬ ∃ a, m = .host a ∧ windowBase + s.par.bufBytes ≤ a.off) ∨
      (performMove m s = .refused .outsideEngine ∧ ∃ a, m = .host a ∧ windowBase + s.par.bufBytes ≤ a.off) := by
  cases hen : moveEnabled m s with
  | false =>
    refine .inl ⟨⟨s, performMove_disabled hen⟩, ?_⟩
    rintro ⟨a, rfl, _⟩
    cases hen
  | true =>
    rw [performMove_enabled hen]
    cases m with
    | host a =>
      rcases hostAccess_outcome a s with ⟨hnext, hinside⟩ | ⟨hrefused, houtside⟩
      · refine .inl ⟨hnext, ?_⟩
        rintro ⟨b, hb, houtside⟩
        cases hb
        omega
      · exact .inr ⟨hrefused, a, rfl, houtside⟩
    | seq k => exact .inl ⟨⟨_, rfl⟩, by simp⟩
    | isr src =>
      obtain ⟨_, hpending, _⟩ := (isrEnabled_iff src s).1 hen
      rw [runMove, dispatchIsr, if_pos (hs.slot_of_pending hpending)]
      exact .inl ⟨hs.runHandler_next hpending, by simp⟩
    | env e => exact .inl ⟨⟨_, rfl⟩, by simp⟩
    | reset => exact .inl ⟨⟨_, rfl⟩, by simp⟩

/-- Settles O56: whichever move a step takes, `Sound.performMove_outcome`. -/
theorem soundStepsNeverFault : Obligations.SoundStepsNeverFault := by
  refine ⟨fun s hs => ?_, fun s m hs => ?_⟩
  · obtain ⟨m, moves, draws, hstep, _⟩ := step_eq s
    rw [hstep]
    rcases (hs.with_moves moves draws).performMove_outcome m with ⟨hnext, _⟩ | ⟨hrefused, _⟩
    · exact .inr hnext
    · exact .inl hrefused
  · rw [step_queued]
    rcases hs.performMove_outcome m with ⟨⟨t, hnext⟩, hinside⟩ | ⟨hrefused, houtside⟩
    · exact ⟨fun h => by simp [hnext] at h, fun h => absurd h hinside⟩
    · exact ⟨fun _ => houtside, fun _ => hrefused⟩

end Sys2Proof.Machine
end

section
/-!
PROOFS. Who writes what (10_state.md R13, 40_arbiter.md R71, R73, 20_memory.md R38, R47) and the table of the SPI phases
(42_spi.md R102). What the sequencer and the environment never write is said once; the host and the handlers give their
writers by the cases of `HostStep` and `HandlerStep`.
-/

namespace Sys2Proof.Machine

/-! ## What the sequencer and the environment never write -/

/-- The parameters, the operands, the ownership and the buffer memory stay. -/
structure KeepsStores (s t : State) : Prop where
  par : t.par = s.par
  reg : t.reg = s.reg
  arb : t.arb = s.arb
  bufmem : t.bufmem = s.bufmem
  epoch : t.epoch = s.epoch

theorem KeepsStores.refl (s : State) : KeepsStores s s := ⟨rfl, rfl, rfl, rfl, rfl⟩

theorem KeepsStores.bufByte {s t : State} (h : KeepsStores s t) (i : Nat) : bufByte t i = bufByte s i :=
  bufByte_congr h.bufmem h.epoch i

theorem raiseFault_keepsStores (f : FaultCode) (s : State) : KeepsStores s (raiseFault f s) := by
  constructor <;> simp

theorem ActionStep.keepsStores {s t : State} {a : Action} (h : ActionStep s a t) : KeepsStores s t := by
  cases h with
  | selects => constructor <;> simp
  | deselects => constructor <;> simp
  | finishes => exact ⟨rfl, rfl, rfl, rfl, rfl⟩
  | starts _ _ hstart => cases hstart <;> exact ⟨rfl, rfl, rfl, rfl, rfl⟩

theorem runSeq_keepsStores {k : SeqStep} {s : State} (hen : seqEnabled k s = true) : KeepsStores s (runSeq k s) := by
  cases k with
  | i2cWriteCont =>
    simp only [runSeq, i2cWriteCont]
    split <;> exact ⟨rfl, rfl, rfl, rfl, rfl⟩
  | spiGo =>
    simp only [runSeq, spiGo]
    split <;> exact ⟨rfl, rfl, rfl, rfl, rfl⟩
  | spiFinish =>
    simp only [runSeq, spiFinish]
    split <;> exact ⟨rfl, rfl, rfl, rfl, rfl⟩
  | csHighFinish => constructor <;> simp [runSeq, csHighFinish]
  | flashStep =>
    obtain ⟨t, ht⟩ := Option.isSome_iff_exists.1 hen
    obtain ⟨_, _, a, _, hstep⟩ := flashStep?_some ht
    simpa [runSeq, ht] using hstep.keepsStores
  | i2cWriteFinish | i2cReadFinish | flashFinish => exact ⟨rfl, rfl, rfl, rfl, rfl⟩

theorem runEnv_keepsStores (e : EnvEvent) (s : State) : KeepsStores s (runEnv e s) := by
  cases e with
  | spiShiftDone line => constructor <;> simp [runEnv, evSpiShiftDone]
  | i2cTxRdy | i2cNack | i2cRxByte | i2cStopDone | spiLoad | eraseDelay | flashReady | flashPowerCycle =>
    exact ⟨rfl, rfl, rfl, rfl, rfl⟩

/-! ## The commands -/

theorem instr?_bindTx {stop : Bool} {i : Instr} (h : Opcode.instr? .bindTx stop = some i) : i = .bindTx := by
  cases stop <;> cases h
  rfl

theorem instr?_bindRx {stop : Bool} {i : Instr} (h : Opcode.instr? .bindRx stop = some i) : i = .bindRx := by
  cases stop <;> cases h
  rfl

theorem instr?_init {p : Opcode} {stop : Bool} {i : Instr} (hp : isInit p = true) (h : p.instr? stop = some i) :
    i ∈ [Instr.i2cInit, .spiInit, .flashInit] := by
  have hcommand : p = .i2cInit ∨ p = .spiInit ∨ p = .flashInit := by simpa [isInit] using hp
  rcases hcommand with rfl | rfl | rfl <;> cases stop <;> cases h <;> simp

/-- A command writes neither the parameters, nor the operands, nor the buffer memory. -/
theorem CommandTaken.keeps {s t : State} {p : Opcode} {stop : Bool} (h : CommandTaken s p stop t) :
    t.par = s.par ∧ t.reg = s.reg ∧ t.bufmem = s.bufmem ∧ t.epoch = s.epoch := by
  have heffect := h.effect
  cases p with
  | bindTx =>
    obtain ⟨e, rfl⟩ := bindTx_ok heffect
    exact ⟨rfl, rfl, rfl, rfl⟩
  | bindRx =>
    obtain ⟨e, rfl⟩ := bindRx_ok heffect
    exact ⟨rfl, rfl, rfl, rfl⟩
  | spiInit | flashInit =>
    cases heffect
    simp [spiInitState]
  | spiCsLow =>
    cases heffect
    simp
  | i2cInit | i2cWrite | i2cRead | spiWrite | spiRead | spiBusy | spiCsHigh | flashReadId | flashRead | flashWrite
  | flashBusy =>
    cases heffect
    exact ⟨rfl, rfl, rfl, rfl⟩

/-- The commands that write the ownership of the bus: an init all of it, a binding one slot. -/
theorem CommandTaken.arb_cases {s t : State} {p : Opcode} {stop : Bool} {i : Instr} (h : CommandTaken s p stop t)
    (hinstr : p.instr? stop = some i) :
    t.arb = s.arb ∨ i ∈ [Instr.i2cInit, .spiInit, .flashInit] ∨
      (i ∈ [Instr.bindTx, .bindRx] ∧ t.arb.mode = s.arb.mode) := by
  have heffect := h.effect
  cases p with
  | bindTx =>
    obtain ⟨e, rfl⟩ := bindTx_ok heffect
    exact .inr (.inr ⟨by simp [instr?_bindTx hinstr], rfl⟩)
  | bindRx =>
    obtain ⟨e, rfl⟩ := bindRx_ok heffect
    exact .inr (.inr ⟨by simp [instr?_bindRx hinstr], rfl⟩)
  | i2cInit | spiInit | flashInit => exact .inr (.inl (instr?_init rfl hinstr))
  | spiCsLow =>
    cases heffect
    exact .inl (by simp)
  | i2cWrite | i2cRead | spiWrite | spiRead | spiBusy | spiCsHigh | flashReadId | flashRead | flashWrite | flashBusy =>
    cases heffect
    exact .inl rfl

/-! ## The registers -/

/-- All that a move can do to the parameters, the operands and the ownership. -/
inductive RegisterStep (s t : State) : Move → Prop where
  | keeps {m : Move} (hpar : t.par = s.par) (hreg : t.reg = s.reg) (harb : t.arb = s.arb) : RegisterStep s t m
  | operands {a : HostAccess} (hwrite : operandWrite a) (hpar : t.par = s.par) (harb : t.arb = s.arb) :
      RegisterStep s t (.host a)
  | takesBus {w : Word} {i : Instr} (hdecode : decode (.cmd32 w) = .ok i)
      (hi : i ∈ [Instr.i2cInit, .spiInit, .flashInit]) (hpar : t.par = s.par) (hreg : t.reg = s.reg) :
      RegisterStep s t (commandMove w)
  | binds {w : Word} {i : Instr} (hdecode : decode (.cmd32 w) = .ok i) (hi : i ∈ [Instr.bindTx, .bindRx])
      (hmode : t.arb.mode = s.arb.mode) (hpar : t.par = s.par) (hreg : t.reg = s.reg) : RegisterStep s t (commandMove w)
  | resets (hpar : t.par = s.par) : RegisterStep s t .reset

theorem KeepsStores.registerStep {s t : State} (h : KeepsStores s t) (m : Move) : RegisterStep s t m :=
  .keeps h.par h.reg h.arb

theorem HostStep.registerStep {a : HostAccess} {s t : State} (h : HostStep s a t) : RegisterStep s t (.host a) := by
  cases h with
  | ignored => exact (KeepsStores.refl s).registerStep _
  | raises f => exact (raiseFault_keepsStores f s).registerStep _
  | answers w => exact .keeps rfl rfl rfl
  | raisesOnRead f =>
    obtain ⟨hpar, hreg, harb, _, _⟩ := raiseFault_keepsStores f s
    exact .keeps hpar hreg harb
  | storesOperands hwrite => exact .operands hwrite rfl rfl
  | storesByte => exact .keeps rfl rfl rfl
  | takesCommand hmove hdecode hinstr htaken =>
    obtain ⟨hpar, hreg, _, _⟩ := htaken.keeps
    rcases htaken.arb_cases hinstr with harb | hinit | ⟨hbind, hmode⟩
    · exact .keeps hpar hreg harb
    · exact hmove ▸ .takesBus hdecode hinit hpar hreg
    · exact hmove ▸ .binds hdecode hbind hmode hpar hreg

theorem HandlerStep.registerStep {src : Source} {s t : State} (h : HandlerStep s src t) :
    RegisterStep s t (.isr src) := by
  cases h with
  | spiRxLast hwrite | spiRxMore hwrite =>
    obtain ⟨_, harb, _, _, _, _, hpar, _, hreg, _⟩ := dstWrite_frame hwrite
    exact .keeps hpar hreg harb
  | i2cTxCompletes | i2cTxLoads | i2cRxLast | i2cRxMore | i2cNack | spiTxCompletes | spiTxLoads =>
    exact .keeps rfl rfl rfl

theorem step_registerStep {m : Move} {s t : State} (h : step (s.queued m) = .next t) : RegisterStep s t m := by
  rw [step_queued] at h
  obtain ⟨_, rfl⟩ | ⟨hen, hrun⟩ := performMove_cases h
  · exact .keeps rfl rfl rfl
  cases m with
  | host a => exact (hostAccess_hostStep hrun).registerStep
  | seq k =>
    cases hrun
    exact (runSeq_keepsStores hen).registerStep _
  | isr src =>
    rcases dispatchIsr_cases hrun with hhandler | ⟨_, rfl⟩
    · exact hhandler.registerStep
    · exact (raiseFault_keepsStores _ s).registerStep _
  | env e =>
    cases hrun
    exact (runEnv_keepsStores e s).registerStep _
  | reset =>
    cases hrun
    exact .resets rfl

/-- Settles O49: every move is a `RegisterStep`. -/
theorem registersHaveTheirWritersOnly : Obligations.RegistersHaveTheirWritersOnly := by
  intro m s t h
  cases step_registerStep h with
  | keeps hpar hreg harb =>
    exact ⟨hpar, fun hne => absurd hreg hne, fun hne => absurd (by rw [harb]) hne, fun hne => absurd harb hne⟩
  | operands hwrite hpar harb =>
    obtain ⟨off, w, rfl, hoff⟩ := hwrite
    exact ⟨hpar, fun _ => .inr ⟨off, w, rfl, hoff⟩, fun hne => absurd (by rw [harb]) hne, fun hne => absurd harb hne⟩
  | takesBus hdecode hi hpar hreg =>
    refine ⟨hpar, fun hne => absurd hreg hne, fun _ => .inr ⟨_, _, rfl, hdecode, hi⟩,
      fun _ => .inr ⟨_, _, rfl, hdecode, ?_⟩⟩
    exact List.mem_append_left [Instr.bindTx, .bindRx] hi
  | binds hdecode hi hmode hpar hreg =>
    refine ⟨hpar, fun hne => absurd hreg hne, fun hne => absurd hmode hne, fun _ => .inr ⟨_, _, rfl, hdecode, ?_⟩⟩
    exact List.mem_append_right [Instr.i2cInit, .spiInit, .flashInit] hi
  | resets hpar => exact ⟨hpar, fun _ => .inl rfl, fun _ => .inl rfl, fun _ => .inl rfl⟩

/-! ## The buffer memory -/

/-- A byte that a host access changes is the one it writes. -/
theorem HostStep.byte_changed {a : HostAccess} {s t : State} {i : Nat} (h : HostStep s a t)
    (hne : bufByte t i ≠ bufByte s i) :
    s.op.opc = none ∧ ∃ w, a = { dir := .write, bits := 8, off := windowBase + i, data := w } := by
  cases h with
  | ignored => exact absurd rfl hne
  | raises f => exact absurd ((raiseFault_keepsStores f s).bufByte i) hne
  | answers w => exact absurd rfl hne
  | raisesOnRead f => exact absurd ((raiseFault_keepsStores f s).bufByte i) hne
  | storesOperands => exact absurd rfl hne
  | @storesByte j w hwrite hrange hidle =>
    by_cases hij : i = j
    · subst hij
      exact ⟨hidle, w, hwrite⟩
    · exact absurd (bufByte_setBufByte_other s _ hij) hne
  | takesCommand _ _ _ htaken =>
    obtain ⟨_, _, hbufmem, hepoch⟩ := htaken.keeps
    exact absurd (bufByte_congr hbufmem hepoch i) hne

/-- A byte that a handler changes is the one at its engine's cursor. -/
theorem HandlerStep.byte_changed {src : Source} {s t : State} {i : Nat} (h : HandlerStep s src t)
    (hne : bufByte t i ≠ bufByte s i) :
    (src = .i2cRx ∧ i = s.i2c.cur.toNat) ∨ (src = .spiRx ∧ s.spi.mem = .buf ∧ i = s.spi.cur.toNat) := by
  cases h with
  | i2cRxLast | i2cRxMore => exact .inl ⟨rfl, not_not.1 fun hi => hne (bufByte_setBufByte_other s s.i2c.rxbuf hi)⟩
  | spiRxLast hwrite | spiRxMore hwrite =>
    obtain ⟨_, ⟨hmem, rfl⟩ | ⟨_, g, _, rfl⟩ | ⟨_, rfl⟩⟩ := dstWrite_ok hwrite
    · exact .inr ⟨rfl, hmem, not_not.1 fun hi => hne (bufByte_setBufByte_other s s.spi.rxbuf hi)⟩
    · exact absurd rfl hne
    · exact absurd rfl hne
  | i2cTxCompletes | i2cTxLoads | i2cNack | spiTxCompletes | spiTxLoads => exact absurd rfl hne

/-- Settles O50: the host and the receive handlers are the only writers, and a receive handler runs for a phase that is not
idle. -/
theorem bufferMemoryHasItsWritersOnly : Obligations.BufferMemoryHasItsWritersOnly := by
  intro m s t i hs h hm hne
  rw [step_queued] at h
  obtain ⟨_, rfl⟩ | ⟨hen, hrun⟩ := performMove_cases h
  · exact absurd rfl hne
  cases m with
  | host a =>
    obtain ⟨hidle, w, rfl⟩ := (hostAccess_hostStep hrun).byte_changed hne
    exact .inl ⟨hidle, w, rfl⟩
  | seq k =>
    cases hrun
    exact absurd ((runSeq_keepsStores hen).bufByte i) hne
  | isr src =>
    obtain ⟨_, hpending, _⟩ := (isrEnabled_iff src s).1 hen
    rcases dispatchIsr_cases hrun with hhandler | ⟨_, rfl⟩
    · rcases hhandler.byte_changed hne with ⟨rfl, hi⟩ | ⟨rfl, hmem, hi⟩
      · obtain ⟨hflag, hie⟩ := Bool.and_eq_true_iff.1 hpending
        have hphase : s.i2c.phase ≠ .idle := by simp [(hs.i2c.rxPending hflag hie).1]
        exact .inr (.inl ⟨rfl, (hs.operation.i2cPhase hphase).ne_none, hphase, hi⟩)
      · obtain ⟨_, hie⟩ := Bool.and_eq_true_iff.1 hpending
        have hphase := hs.spi.ne_idle (.inr hie)
        exact .inr (.inr ⟨rfl, hs.operation.live_of_spiPhase hphase, hphase, hmem, hi⟩)
    · exact absurd ((raiseFault_keepsStores _ s).bufByte i) hne
  | env e =>
    cases hrun
    exact absurd ((runEnv_keepsStores e s).bufByte i) hne
  | reset => exact absurd rfl hm

/-! ## The phases of the SPI engine (42_spi.md R102) -/

/-- All that a move other than reset can do to the phase from a sound state: keep it, or take one row of the table of R102.
The row of the inits keeps it, since with no live operation the phase is already `IDLE` (10_state.md R34). -/
inductive SpiPhaseStep (s t : State) : Move → Prop where
  | keeps {m : Move} (h : t.spi.phase = s.spi.phase) : SpiPhaseStep s t m
  | issued {w : Word} {i : Instr} (hdecode : decode (.cmd32 w) = .ok i) (hi : i = .spiWrite ∨ i = .spiRead)
      (hfrom : s.spi.phase = .idle) (hto : t.spi.phase = .waitIdle) : SpiPhaseStep s t (commandMove w)
  | actionStarts (hfrom : s.spi.phase = .idle) (hto : t.spi.phase = .waitIdle) : SpiPhaseStep s t (.seq .flashStep)
  | goes (hfrom : s.spi.phase = .waitIdle) (hempty : s.spi.txFull = false) (hstill : s.spi.shifting = false)
      (hto : t.spi.phase = .transferring) : SpiPhaseStep s t (.seq .spiGo)
  | finishes (hfrom : s.spi.phase = .transferring) (hdone : s.spi.done = true) (hto : t.spi.phase = .idle) :
      SpiPhaseStep s t (.seq .spiFinish)

/-- A command keeps the phase, clears it, or starts a host transfer. -/
theorem CommandTaken.spiPhase_cases {s t : State} {p : Opcode} {stop : Bool} {i : Instr} (h : CommandTaken s p stop t)
    (hinstr : p.instr? stop = some i) :
    t.spi.phase = s.spi.phase ∨ t.spi.phase = .idle ∨ ((i = .spiWrite ∨ i = .spiRead) ∧ t.spi.phase = .waitIdle) := by
  have heffect := h.effect
  cases p with
  | bindTx =>
    obtain ⟨e, rfl⟩ := bindTx_ok heffect
    exact .inl rfl
  | bindRx =>
    obtain ⟨e, rfl⟩ := bindRx_ok heffect
    exact .inl rfl
  | spiInit | flashInit =>
    cases heffect
    exact .inr (.inl (by simp [spiInitState, SpiState.reset]))
  | spiWrite =>
    cases heffect
    exact .inr (.inr ⟨.inl (by cases stop <;> cases hinstr; rfl), rfl⟩)
  | spiRead =>
    cases heffect
    exact .inr (.inr ⟨.inr (by cases stop <;> cases hinstr; rfl), rfl⟩)
  | spiCsLow =>
    cases heffect
    exact .inl (by simp)
  | i2cInit | i2cWrite | i2cRead | spiBusy | spiCsHigh | flashReadId | flashRead | flashWrite | flashBusy =>
    cases heffect
    exact .inl rfl

theorem HostStep.spiPhaseStep {a : HostAccess} {s t : State} (h : HostStep s a t) (hs : Sound s) :
    SpiPhaseStep s t (.host a) := by
  cases h with
  | ignored => exact .keeps rfl
  | raises f => exact .keeps (by simp)
  | answers w => exact .keeps rfl
  | raisesOnRead f => exact .keeps (by simp)
  | storesOperands => exact .keeps rfl
  | storesByte => exact .keeps rfl
  | takesCommand hmove hdecode hinstr htaken =>
    obtain ⟨_, hidle, _, _⟩ := hs.at_rest htaken.idle
    rcases htaken.spiPhase_cases hinstr with hkept | hcleared | ⟨hi, hto⟩
    · exact .keeps hkept
    · exact .keeps (hcleared.trans hidle.symm)
    · exact hmove ▸ .issued hdecode hi hidle hto

theorem HandlerStep.spiPhase {src : Source} {s t : State} (h : HandlerStep s src t) : t.spi.phase = s.spi.phase := by
  cases h <;> rfl

theorem ActionStart.spiPhase {s t : State} {a : Action} (h : ActionStart s a t) : t.spi.phase = .waitIdle := by
  cases h <;> rfl

theorem ActionStep.spiPhaseStep {s t : State} {a : Action} (h : ActionStep s a t) (hs : Sound s) (hlive : flashOpLive s) :
    SpiPhaseStep s t (.seq .flashStep) := by
  cases h with
  | selects => exact .keeps (by simp)
  | deselects => exact .keeps (by simp)
  | finishes => exact .keeps rfl
  | starts _ hwaiting hstart => exact .actionStarts (hs.spi_idle_of_waiting hlive hwaiting) hstart.spiPhase

theorem spiGo_phase (s : State) : (spiGo s).spi.phase = .transferring := by
  unfold spiGo
  split <;> rfl

theorem spiFinish_phase (s : State) : (spiFinish s).spi.phase = .idle := by
  unfold spiFinish
  split <;> rfl

theorem runSeq_spiPhaseStep {k : SeqStep} {s : State} (hs : Sound s) (hen : seqEnabled k s = true) :
    SpiPhaseStep s (runSeq k s) (.seq k) := by
  cases k with
  | i2cWriteCont =>
    refine .keeps ?_
    simp only [runSeq, i2cWriteCont]
    split <;> rfl
  | spiGo =>
    obtain ⟨hphase, hempty, hstill, _⟩ := (spiGoEnabled_iff s).1 hen
    exact .goes hphase hempty hstill (spiGo_phase s)
  | spiFinish =>
    obtain ⟨hphase, hdone, _⟩ := (spiFinishEnabled_iff s).1 hen
    exact .finishes hphase hdone (spiFinish_phase s)
  | csHighFinish => exact .keeps (by simp [runSeq, csHighFinish])
  | flashStep =>
    obtain ⟨t, ht⟩ := Option.isSome_iff_exists.1 hen
    obtain ⟨hlive, _, a, _, hstep⟩ := flashStep?_some ht
    simpa [runSeq, ht] using hstep.spiPhaseStep hs hlive
  | i2cWriteFinish | i2cReadFinish | flashFinish => exact .keeps rfl

theorem runEnv_spiPhase (e : EnvEvent) (s : State) : (runEnv e s).spi.phase = s.spi.phase := by
  cases e with
  | spiShiftDone line => rw [runEnv, evSpiShiftDone, chipShift_self]
  | i2cTxRdy | i2cNack | i2cRxByte | i2cStopDone | spiLoad | eraseDelay | flashReady | flashPowerCycle => rfl

theorem step_spiPhaseStep {m : Move} {s t : State} (hs : Sound s) (hm : m ≠ .reset)
    (h : step (s.queued m) = .next t) : SpiPhaseStep s t m := by
  rw [step_queued] at h
  obtain ⟨_, rfl⟩ | ⟨hen, hrun⟩ := performMove_cases h
  · exact .keeps rfl
  cases m with
  | host a => exact (hostAccess_hostStep hrun).spiPhaseStep hs
  | seq k =>
    cases hrun
    exact runSeq_spiPhaseStep hs hen
  | isr src =>
    rcases dispatchIsr_cases hrun with hhandler | ⟨_, rfl⟩
    · exact .keeps hhandler.spiPhase
    · exact .keeps (by simp)
  | env e =>
    cases hrun
    exact .keeps (runEnv_spiPhase e s)
  | reset => exact absurd rfl hm

/-- Settles O52: every move but reset is a `SpiPhaseStep`, whose constructors are the rows of the table. -/
theorem spiPhaseFollowsItsTable : Obligations.SpiPhaseFollowsItsTable := by
  intro m s t hs h hm hchanged
  cases step_spiPhaseStep hs hm h with
  | keeps hkept => exact absurd hkept hchanged
  | issued hdecode hi hfrom hto => exact .inl ⟨hfrom, hto, .inr ⟨_, _, rfl, hdecode, hi⟩⟩
  | actionStarts hfrom hto => exact .inl ⟨hfrom, hto, .inl rfl⟩
  | goes hfrom hempty hstill hto => exact .inr (.inl ⟨rfl, hfrom, hempty, hstill, hto⟩)
  | finishes hfrom hdone hto => exact .inr (.inr ⟨rfl, hfrom, hdone, hto⟩)

end Sys2Proof.Machine
end

section
/-!
PROOFS. The two runs under one schedule each (41_i2c.md R100 (a), 42_spi.md R115 (b)). What holds between two rounds of a
schedule is one predicate on the state, with the bytes left as its index; a round of each schedule steps that predicate on
by one byte, and the run is an induction on the rounds.
-/

namespace Sys2Proof.Machine

/-! ## Runs -/

theorem core_run_succ {M : Host.Core} {s t : M.State} (h : M.step s = .next t) (n : Nat) :
    M.run (n + 1) s = M.run n t := by
  rw [Host.Core.run, h]

theorem core_run_succ_next {M : Host.Core} {s t : M.State} {n : Nat} (h : M.run (n + 1) s = .next t) :
    ∃ u, M.step s = .next u ∧ M.run n u = .next t := by
  rw [Host.Core.run] at h
  split at h
  · exact ⟨_, ‹_›, h⟩
  · cases h
  · cases h

/-- The machine's run, at the machine's own state type. -/
def runFor (n : Nat) (s : State) : Host.Outcome State Fault Refusal := Host.Core.run Sys2Proof.core n s

theorem runFor_succ {s t : State} (h : step s = .next t) (n : Nat) : runFor (n + 1) s = runFor n t :=
  core_run_succ (M := Sys2Proof.core) h n

theorem runFor_succ_next {s t : State} {n : Nat} (h : runFor (n + 1) s = .next t) :
    ∃ u, step s = .next u ∧ runFor n u = .next t :=
  core_run_succ_next (M := Sys2Proof.core) h

theorem runFor_one {s t : State} (h : step s = .next t) : runFor 1 s = .next t := runFor_succ h 0

/-- A run may be cut at any step. -/
theorem runFor_add {s t : State} {m : Nat} (h : runFor m s = .next t) (n : Nat) : runFor (m + n) s = runFor n t := by
  induction m generalizing s with
  | zero =>
    cases h
    rw [Nat.zero_add]
  | succ m ih =>
    obtain ⟨u, hstep, hrest⟩ := runFor_succ_next h
    rw [Nat.add_right_comm, runFor_succ hstep, ih hrest]

/-- An enabled move at the head of the list is run. -/
theorem step_head {s : State} {m : Move} {ms : List Move} (hmoves : s.moves = m :: ms)
    (hen : moveEnabled m { s with moves := ms } = true) : step s = runMove m { s with moves := ms } :=
  (step_of_moves hmoves).trans (performMove_enabled hen)

theorem step_head_isr {s : State} {src : Source} {ms : List Move} (hmoves : s.moves = .isr src :: ms)
    (hclear : s.fault = false) (hpending : sourcePending src s = true)
    (hslot : sourceSlot src s = some (sourceEngine src)) : step s = runHandler src { s with moves := ms } := by
  have hpending' : sourcePending src { s with moves := ms } = true := by cases src <;> exact hpending
  have hslot' : sourceSlot src { s with moves := ms } = some (sourceEngine src) := by cases src <;> exact hslot
  exact (step_of_moves hmoves).trans (step_isr_runs (s := { s with moves := ms }) hclear hpending' hslot')

/-- The cursor of a transfer that has bytes left, read as a number. -/
theorem cursor_toNat {b n size : Nat} (hrange : b + n ≤ size) (hsize : size ≤ 65536) (hn : n ≠ 0) :
    (BitVec.ofNat 16 b).toNat = b := by
  rw [BitVec.toNat_ofNat]
  omega

theorem ofNat_succ_sub_one (n : Nat) : BitVec.ofNat 16 (n + 1) - 1 = BitVec.ofNat 16 n := by
  rw [show BitVec.ofNat 16 (n + 1) = BitVec.ofNat 16 n + 1 from by simp [BitVec.ofNat_add]]
  exact BitVec.add_sub_cancel _ _

theorem ofNat_add_one (b : Nat) : BitVec.ofNat 16 b + 1 = BitVec.ofNat 16 (b + 1) := by
  simp [BitVec.ofNat_add]

theorem ofNat_succ_ne_zero {n : Nat} (h : n + 1 ≤ 65535) : BitVec.ofNat 16 (n + 1) ≠ 0 := by
  intro hzero
  have := congrArg BitVec.toNat hzero
  simp at this
  omega

/-! ## The I2C write (41_i2c.md R100 (a)) -/

/-- A write without a stop waits for an acknowledge, with `n` bytes left from index `b` on. -/
structure I2cSending (b n : Nat) (s : State) : Prop where
  params : ParamsOk s.par
  clear : s.fault = false
  mode : s.arb.mode = .i2c
  slot : s.arb.tx = some .i2c
  opc : s.op.opc = some .i2cWrite
  dir : s.i2c.dir = .tx
  phase : s.i2c.phase = .starting ∨ s.i2c.phase = .transmitting
  flag : s.i2c.txifg = false
  acked : s.i2c.nacked = false
  going : s.i2c.done = false
  enabled : s.i2c.txie = true
  noStop : s.i2c.sendStop = false
  held : s.i2c.held = true
  left : s.i2c.rem = BitVec.ofNat 16 n
  cursor : s.i2c.cur = BitVec.ofNat 16 b
  count : n ≤ 65535
  inRange : b + n ≤ s.par.bufBytes

/-- The state after the acknowledge of the address or of a byte. -/
def State.acknowledged (s : State) (ms : List Move) : State :=
  { s with moves := ms, i2c := { s.i2c with txifg := true, phase := .transmitting } }

theorem I2cSending.step_txRdy {b n : Nat} {s : State} {ms : List Move} (h : I2cSending b n s)
    (hmoves : s.moves = .env .i2cTxRdy :: ms) : step s = .next (s.acknowledged ms) := by
  have hen : evI2cTxRdyEnabled { s with moves := ms } = true :=
    (evI2cTxRdyEnabled_iff _).2 ⟨h.mode, h.clear, h.dir, h.phase, h.flag, h.acked, h.going⟩
  exact (step_head hmoves hen).trans
    (congrArg Host.Outcome.next (evI2cTxRdy_eq (s := { s with moves := ms }) h.phase))

theorem I2cSending.step_isr {b n : Nat} {s : State} (h : I2cSending b n s) (ms : List Move) :
    step (s.acknowledged (.isr .i2cTx :: ms)) = i2cTxHandler (s.acknowledged ms) :=
  step_head_isr (src := .i2cTx) rfl h.clear (Bool.and_eq_true_iff.2 ⟨rfl, h.enabled⟩) h.slot

/-- An acknowledge and the handler run after it. -/
theorem I2cSending.round {b n : Nat} {s t : State} {ms : List Move} (h : I2cSending b n s)
    (hmoves : s.moves = .env .i2cTxRdy :: .isr .i2cTx :: ms) (ht : i2cTxHandler (s.acknowledged ms) = .next t) :
    runFor 2 s = .next t :=
  (runFor_succ (h.step_txRdy hmoves) 1).trans (runFor_one ((h.step_isr ms).trans ht))

/-- A round loads the next byte. -/
theorem I2cSending.loads {b n : Nat} {s : State} {ms : List Move} (h : I2cSending b (n + 1) s)
    (hmoves : s.moves = .env .i2cTxRdy :: .isr .i2cTx :: ms) :
    ∃ t, runFor 2 s = .next t ∧ I2cSending (b + 1) n t ∧ t.moves = ms ∧ t.bufmem = s.bufmem ∧ t.epoch = s.epoch ∧
      t.i2c.txdata = bufByte s b := by
  have hrange := h.inRange
  have hcur : s.i2c.cur.toNat = b := by rw [h.cursor, cursor_toNat hrange h.params.2 (by omega)]
  have hrem : s.i2c.rem ≠ 0 := by
    rw [h.left]
    exact ofNat_succ_ne_zero h.count
  have hnext : b + 1 + n ≤ s.par.bufBytes := by omega
  have hinside : s.i2c.cur.toNat < s.par.bufBytes := by omega
  refine ⟨_, h.round hmoves (i2cTxHandler_loads hrem hinside), ?_, rfl, rfl, rfl, congrArg (bufByte s) hcur⟩
  exact
    { params := h.params, clear := h.clear, mode := h.mode, slot := h.slot, opc := h.opc, dir := h.dir
      phase := .inr rfl
      flag := rfl
      acked := h.acked, going := h.going, enabled := h.enabled, noStop := h.noStop, held := h.held
      left := (congrArg (· - 1) h.left).trans (ofNat_succ_sub_one n)
      cursor := (congrArg (· + 1) h.cursor).trans (ofNat_add_one b)
      count := Nat.le_of_succ_le h.count
      inRange := hnext }

theorem writeSchedule_succ (n : Nat) (rest : List Move) :
    writeSchedule (n + 1) ++ rest = .env .i2cTxRdy :: .isr .i2cTx :: (writeSchedule n ++ rest) := rfl

/-- `k` rounds load `k` bytes, the last of them the one at `b + (k - 1)`. -/
theorem I2cSending.rounds {b n : Nat} {s : State} {rest : List Move} (h : I2cSending b n s)
    (hmoves : s.moves = writeSchedule n ++ rest) {k : Nat} (hk : k ≤ n) :
    ∃ t, runFor (2 * k) s = .next t ∧ I2cSending (b + k) (n - k) t ∧ t.moves = writeSchedule (n - k) ++ rest ∧
      t.bufmem = s.bufmem ∧ t.epoch = s.epoch ∧ ∀ j, k = j + 1 → t.i2c.txdata = bufByte s (b + j) := by
  induction k with
  | zero => exact ⟨s, rfl, h, hmoves, rfl, rfl, fun j hj => by omega⟩
  | succ k ih =>
    obtain ⟨u, hrun, hu, humoves, hubuf, huepoch, _⟩ := ih (Nat.le_of_succ_le hk)
    obtain ⟨m, hm⟩ : ∃ m, n - k = m + 1 := ⟨n - (k + 1), by omega⟩
    rw [hm] at hu humoves
    obtain ⟨t, hround, ht, htmoves, htbuf, htepoch, hdata⟩ := hu.loads humoves
    have hleft : n - (k + 1) = m := by omega
    rw [hleft]
    refine ⟨t, ?_, ht, htmoves, htbuf.trans hubuf, htepoch.trans huepoch, fun j hj => ?_⟩
    · rw [show 2 * (k + 1) = 2 * k + 2 from by ring, runFor_add hrun, hround]
    · obtain rfl : k = j := by omega
      exact hdata.trans (bufByte_congr hubuf huepoch _)

/-- The state after the handler run that finds no byte left. -/
def State.completedWrite (s : State) (ms : List Move) : State :=
  { s with
    moves := ms
    i2c := { s.i2c with txifg := true, phase := .transmitting, ackOk := true, done := true, txie := false } }

/-- The round with no byte left completes. -/
theorem I2cSending.completes {b : Nat} {s : State} {ms : List Move} (h : I2cSending b 0 s)
    (hmoves : s.moves = .env .i2cTxRdy :: .isr .i2cTx :: ms) : runFor 2 s = .next (s.completedWrite ms) :=
  h.round hmoves (i2cTxHandler_completes h.left)

/-- The continuation ends a write without a stop. -/
theorem I2cSending.returns {b n : Nat} {s : State} (h : I2cSending b n s) (ms : List Move) :
    step (s.completedWrite (.seq .i2cWriteCont :: ms)) = .next (i2cWriteReturns (s.completedWrite ms)) := by
  have hen : i2cWriteContEnabled (s.completedWrite ms) = true :=
    (i2cWriteContEnabled_iff _).2 ⟨h.opc, rfl, .inl rfl, h.clear⟩
  exact (step_head (s := s.completedWrite (.seq .i2cWriteCont :: ms)) rfl hen).trans
    (congrArg Host.Outcome.next (i2cWriteCont_return (s := s.completedWrite ms) h.noStop))

/-- The issue of a write without a stop. -/
theorem step_i2cWrite_issued {s : State} {ms : List Move} (hparams : ParamsOk s.par) (hready : ready s)
    (harb : s.arb = { mode := .i2c, tx := some .i2c, rx := some .i2c }) (hstopping : s.i2c.stopping = false)
    (hrange : s.reg.buf.toNat + s.reg.len.toNat ≤ s.par.bufBytes) (hmoves : s.moves = commandMove 0x00000011 :: ms) :
    ∃ t, step s = .next t ∧ I2cSending s.reg.buf.toNat s.reg.len.toNat t ∧ t.moves = ms ∧ t.bufmem = s.bufmem ∧
      t.epoch = s.epoch := by
  have hcheck : issueCheck .i2cWrite { s with moves := ms } = none :=
    (issueCheck_i2cWrite _).2 ⟨owns_of_arb harb, hstopping, hrange⟩
  have hwrite := writeCmd_legal (w := 0x00000011) (i := .i2cWrite false) (s := { s with moves := ms }) hready.1 rfl
  have hissue := issue_taken (effect := i2cWrite) (stop := false) (s := { s with moves := ms }) hready hcheck rfl
  refine ⟨_, (step_of_moves hmoves).trans (hwrite.trans hissue), ?_, rfl, rfl, rfl⟩
  exact
    { params := hparams, clear := hready.1, mode := congrArg Arbiter.mode harb, slot := congrArg Arbiter.tx harb
      opc := rfl, dir := rfl, phase := .inl rfl, flag := rfl, acked := rfl, going := rfl, enabled := rfl
      noStop := rfl, held := rfl
      left := (BitVec.ofNat_toNat 16 s.reg.len).symm
      cursor := (BitVec.ofNat_toNat 16 s.reg.buf).symm
      count := by have := s.reg.len.isLt; omega
      inRange := hrange }

/-- Settles O59: the issue, a round for each byte, the round that completes, and the continuation. -/
theorem i2cWriteRunsItsHandlerOncePerItem : Obligations.I2cWriteRunsItsHandlerOncePerItem := by
  intro s rest hparams hready harb hstopping hrange hmoves
  obtain ⟨u, hissue, hu, humoves, hubuf, huepoch⟩ :=
    step_i2cWrite_issued hparams hready harb hstopping hrange hmoves
  obtain ⟨v, hrounds, hv, hvmoves, _⟩ := hu.rounds humoves (Nat.le_refl _)
  rw [Nat.sub_self] at hv hvmoves
  have hdone : runFor (2 * s.reg.len.toNat + 3) s = .next (v.completedWrite (.seq .i2cWriteCont :: rest)) := by
    rw [show 2 * s.reg.len.toNat + 3 = 2 * s.reg.len.toNat + 2 + 1 from rfl, runFor_succ hissue, runFor_add hrounds]
    exact hv.completes hvmoves
  refine ⟨fun k hk => ?_, ⟨_, hdone, rfl, rfl, rfl⟩,
    i2cWriteReturns (v.completedWrite rest), ?_, rfl, rfl, rfl, hv.held, rfl⟩
  · obtain ⟨t, hrun, ht, _, _, _, hdata⟩ := hu.rounds humoves (k := k + 1) hk
    refine ⟨t, ?_, (hdata k rfl).trans (bufByte_congr hubuf huepoch _), ?_, ht.going, ht.enabled⟩
    · exact (runFor_succ hissue (2 * (k + 1))).trans hrun
    · rw [ht.left, BitVec.toNat_ofNat]
      have := s.reg.len.isLt
      omega
  · exact (runFor_add hdone 1).trans (runFor_one (hv.returns rest))

/-! ## The SPI write (42_spi.md R115 (b)) -/

/-- A SPI write with the chip selected and the datapath drained, `n` bytes left from index `b` on. -/
structure SpiSending (b n : Nat) (s : State) : Prop where
  params : ParamsOk s.par
  contract : s.par.flash = .reference
  clear : s.fault = false
  mode : s.arb.mode = .spi
  slot : s.arb.tx = some .spi
  opc : s.op.opc = some .spiWrite
  phase : s.spi.phase = .transferring
  memory : s.spi.mem = .buf
  enabled : s.spi.txie = true
  empty : s.spi.txFull = false
  still : s.spi.shifting = false
  selected : s.cs = false
  left : s.spi.rem = BitVec.ofNat 16 n
  cursor : s.spi.cur = BitVec.ofNat 16 b
  count : n ≤ 65535
  inRange : b + n ≤ s.par.bufBytes

theorem SpiSending.step_isr {b n : Nat} {s : State} {ms : List Move} (h : SpiSending b n s)
    (hmoves : s.moves = .isr .spiTx :: ms) : step s = spiTxHandler { s with moves := ms } :=
  step_head_isr hmoves h.clear (by simp [sourcePending, h.empty, h.enabled]) h.slot

/-- The byte at `b` in the transmit register. -/
def State.byteLoaded (s : State) (b : Nat) (ms : List Move) : State :=
  { s with
    moves := ms
    spi := { s.spi with txbuf := bufByte s b, txFull := true, cur := s.spi.cur + 1, rem := s.spi.rem - 1 } }

/-- The byte at `b` in the shift register. -/
def State.byteShifting (s : State) (b : Nat) (ms : List Move) : State :=
  { s with
    moves := ms
    spi := { s.spi with
      txbuf := bufByte s b, shreg := bufByte s b, txFull := false, shifting := true
      cur := s.spi.cur + 1, rem := s.spi.rem - 1 } }

/-- The byte at `b` clocked out, and `r` taken in from the chip. -/
def State.byteSent (s : State) (b : Nat) (r : Byte) (ms : List Move) : State :=
  { s with
    moves := ms
    spi := { s.spi with
      txbuf := bufByte s b, shreg := bufByte s b, txFull := false, shifting := false, rxbuf := r, rxFull := true
      cur := s.spi.cur + 1, rem := s.spi.rem - 1 }
    dev := { s.dev with frame := s.dev.frame ++ [bufByte s b] } }

theorem SpiSending.step_loads {b n : Nat} {s : State} {ms : List Move} (h : SpiSending b (n + 1) s)
    (hmoves : s.moves = .isr .spiTx :: ms) : step s = .next (s.byteLoaded b ms) := by
  have hrange := h.inRange
  have hcur : s.spi.cur.toNat = b := by rw [h.cursor, cursor_toNat hrange h.params.2 (by omega)]
  have hrem : s.spi.rem ≠ 0 := by
    rw [h.left]
    exact ofNat_succ_ne_zero h.count
  have hread : srcRead s.spi.mem s.spi.cur.toNat { s with moves := ms } = .ok (bufByte s b) := by
    rw [h.memory, hcur]
    exact if_pos (show b < s.par.bufBytes by omega)
  exact (h.step_isr hmoves).trans (spiTxHandler_loads (s := { s with moves := ms }) hrem hread)

theorem SpiSending.step_load {b n : Nat} {s : State} (h : SpiSending b n s) (ms : List Move) :
    step (s.byteLoaded b (.env .spiLoad :: ms)) = .next (s.byteShifting b ms) :=
  step_head (s := s.byteLoaded b (.env .spiLoad :: ms)) rfl
    ((evSpiLoadEnabled_iff (s.byteLoaded b ms)).2 ⟨h.mode, h.clear, rfl, h.still⟩)

theorem SpiSending.step_shift {b n : Nat} {s : State} (h : SpiSending b n s) (line : Byte) (ms : List Move) :
    ∃ r, step (s.byteShifting b (.env (.spiShiftDone line) :: ms)) = .next (s.byteSent b r ms) := by
  have hen : evSpiShiftDoneEnabled (s.byteShifting b ms) = true :=
    (evSpiShiftDoneEnabled_iff _).2 ⟨h.mode, h.clear, rfl⟩
  obtain ⟨r, hr⟩ := chipShift_selected (s := { s.byteShifting b ms with
    spi := { (s.byteShifting b ms).spi with shifting := false, rxbuf := line, rxFull := true } }) h.selected h.contract
  exact ⟨r, (step_head (s := s.byteShifting b (.env (.spiShiftDone line) :: ms)) rfl hen).trans
    (congrArg Host.Outcome.next hr)⟩

/-- One byte is loaded, moved into the shift register and clocked out. -/
theorem SpiSending.round {b n : Nat} {s : State} {line : Byte} {ms : List Move} (h : SpiSending b (n + 1) s)
    (hmoves : s.moves = .isr .spiTx :: .env .spiLoad :: .env (.spiShiftDone line) :: ms) :
    ∃ r, runFor 3 s = .next (s.byteSent b r ms) ∧ SpiSending (b + 1) n (s.byteSent b r ms) := by
  obtain ⟨r, hshift⟩ := h.step_shift line ms
  have hrange := h.inRange
  have hnext : b + 1 + n ≤ s.par.bufBytes := by omega
  refine ⟨r, ?_, ?_⟩
  · rw [runFor_succ (h.step_loads hmoves), runFor_succ (h.step_load _), runFor_one hshift]
  · exact
      { params := h.params, contract := h.contract, clear := h.clear, mode := h.mode, slot := h.slot, opc := h.opc
        phase := h.phase, memory := h.memory, enabled := h.enabled, empty := rfl, still := rfl
        selected := h.selected
        left := (congrArg (· - 1) h.left).trans (ofNat_succ_sub_one n)
        cursor := (congrArg (· + 1) h.cursor).trans (ofNat_add_one b)
        count := Nat.le_of_succ_le h.count
        inRange := hnext }

/-- A write that has sent its last byte, and a host that has its bus back. -/
def State.spiReturned (s : State) (ms : List Move) : State :=
  { s with
    moves := ms, op := { s.op with opc := none }
    spi := { s.spi with done := true, txie := false, phase := .idle } }

/-- With no byte left the handler completes and the finish step ends the operation. -/
theorem SpiSending.returns {b : Nat} {s : State} {ms : List Move} (h : SpiSending b 0 s)
    (hmoves : s.moves = .isr .spiTx :: .seq .spiFinish :: ms) : runFor 2 s = .next (s.spiReturned ms) := by
  have hdone := (h.step_isr hmoves).trans (spiTxHandler_completes h.left)
  have hfinish := step_head (m := .seq .spiFinish) (ms := ms)
    (s := { s with moves := .seq .spiFinish :: ms, spi := { s.spi with done := true, txie := false } }) rfl
    ((spiFinishEnabled_iff _).2 ⟨h.phase, rfl, h.clear⟩)
  exact (runFor_succ hdone 1).trans
    (runFor_one (hfinish.trans (congrArg Host.Outcome.next (if_pos (.inl h.opc)))))

theorem bufBytesFrom_congr {s t : State} (hbuf : t.bufmem = s.bufmem) (hepoch : t.epoch = s.epoch) (b n : Nat) :
    bufBytesFrom t b n = bufBytesFrom s b n := by
  induction n generalizing b with
  | zero => rfl
  | succ n ih => simp only [bufBytesFrom, ih, bufByte_congr hbuf hepoch]

/-- What the chip and the engine hold when the schedule has run: the frame grown by the bytes, the operation over. -/
structure SpiSent (s t : State) (bytes : List Byte) (rest : List Move) : Prop where
  dev : t.dev = { s.dev with frame := s.dev.frame ++ bytes }
  opc : t.op.opc = none
  phase : t.spi.phase = .idle
  clear : t.fault = false
  moves : t.moves = rest

/-- The schedule from the first handler run on, by induction on the bytes of the line. -/
theorem SpiSending.run {lines : List Byte} {b : Nat} {s : State} {rest : List Move} (h : SpiSending b lines.length s)
    (hmoves : s.moves = spiWriteSchedule lines ++ rest) :
    ∃ t, runFor (3 * lines.length + 2) s = .next t ∧ SpiSent s t (bufBytesFrom s b lines.length) rest := by
  induction lines generalizing b s with
  | nil => exact ⟨_, h.returns hmoves, by simp [bufBytesFrom, State.spiReturned], rfl, rfl, h.clear, rfl⟩
  | cons line lines ih =>
    obtain ⟨r, hround, hnext⟩ := h.round (ms := spiWriteSchedule lines ++ rest) hmoves
    obtain ⟨t, hrun, ht⟩ := ih hnext rfl
    refine ⟨t, ?_, ?_, ht.opc, ht.phase, ht.clear, ht.moves⟩
    · rw [List.length_cons, show 3 * (lines.length + 1) + 2 = 3 + (3 * lines.length + 2) by ring, runFor_add hround, hrun]
    · have hbytes := bufBytesFrom_congr (s := s) (t := s.byteSent b r (spiWriteSchedule lines ++ rest)) rfl rfl
      rw [ht.dev, hbytes]
      simp [State.byteSent, bufBytesFrom]

/-- The issue of a write and its go step, the datapath being drained. -/
theorem runFor_spiWrite_issued {s : State} {ms : List Move} (hparams : ParamsOk s.par) (hready : ready s)
    (harb : s.arb = { mode := .spi, tx := some .spi, rx := some .spi }) (hempty : s.spi.txFull = false)
    (hstill : s.spi.shifting = false) (hselected : s.cs = false) (hcontract : s.par.flash = .reference)
    (hrange : s.reg.buf.toNat + s.reg.len.toNat ≤ s.par.bufBytes)
    (hmoves : s.moves = commandMove 0x00000021 :: .seq .spiGo :: ms) :
    ∃ t, runFor 2 s = .next t ∧ SpiSending s.reg.buf.toNat s.reg.len.toNat t ∧ t.moves = ms ∧ t.bufmem = s.bufmem ∧
      t.epoch = s.epoch ∧ t.dev = s.dev := by
  have hcheck : issueCheck .spiWrite { s with moves := .seq .spiGo :: ms } = none :=
    (issueCheck_spiWrite _).2 ⟨owns_of_arb harb, hrange⟩
  have hwrite := writeCmd_legal (w := 0x00000021) (i := .spiWrite) (s := { s with moves := .seq .spiGo :: ms })
    hready.1 rfl
  have hissue := issue_taken (effect := spiWrite) (stop := false) (s := { s with moves := .seq .spiGo :: ms })
    hready hcheck rfl
  have hgo := step_head (s := startSpi .tx .buf s.reg.buf s.reg.len
      (latchOp .spiWrite false { s with moves := .seq .spiGo :: ms })) rfl
    ((spiGoEnabled_iff _).2 ⟨rfl, hempty, hstill, hready.1⟩)
  refine ⟨_, (runFor_succ ((step_of_moves hmoves).trans (hwrite.trans hissue)) 1).trans (runFor_one hgo),
    ?_, rfl, rfl, rfl, rfl⟩
  exact
    { params := hparams, contract := hcontract, clear := hready.1, mode := congrArg Arbiter.mode harb
      slot := congrArg Arbiter.tx harb, opc := rfl, phase := rfl, memory := rfl, enabled := rfl, empty := hempty
      still := hstill, selected := hselected
      left := (BitVec.ofNat_toNat 16 s.reg.len).symm
      cursor := (BitVec.ofNat_toNat 16 s.reg.buf).symm
      count := by have := s.reg.len.isLt; omega
      inRange := hrange }

/-- Settles O60: the issue, the go step, and the schedule of the bytes; the frame is no part of the chip's memory. -/
theorem spiWriteSendsTheBufferInOrder : Obligations.SpiWriteSendsTheBufferInOrder := by
  intro s lines rest hparams hready harb hempty hstill hselected hcontract hrange hlines hmoves
  obtain ⟨u, hissue, hu, humoves, hubuf, huepoch, hudev⟩ :=
    runFor_spiWrite_issued hparams hready harb hempty hstill hselected hcontract hrange hmoves
  rw [← hlines] at hu
  obtain ⟨t, hrun, ht⟩ := hu.run humoves
  have hdev := ht.dev
  rw [hudev, bufBytesFrom_congr hubuf huepoch] at hdev
  have htotal : runFor (3 * lines.length + 4) s = .next t := by
    rw [show 3 * lines.length + 4 = 2 + (3 * lines.length + 2) by ring, runFor_add hissue, hrun]
  refine ⟨t, htotal, ?_, ht.opc, ht.phase, ht.clear, ht.moves, fun x => ?_⟩
  · rw [hdev, hlines]
  · rw [hdev]
    rfl

end Sys2Proof.Machine
end

section
/-!
PROOFS. The commands at an engine that takes one (30_encoding.md R64). A command that passes its issue check has its
effect on the latched operands; one that does not is turned away by the first check that fails. So each statement is one
fact about the issue check, and one equation of the effect.
-/

namespace Sys2Proof.Machine

/-! ## The arbiter (40_arbiter.md R74, R75) -/

/-- An owner code that names an owner writes it into the one slot. -/
theorem exec_bind_owner {s : State} {e : Option Engine} (hready : ready s)
    (hcode : ownerOf? (ownerCode s.reg.addr) = some e) :
    exec .bindTx s = .next { s with op := completed s, arb := { s.arb with tx := e } } ∧
    exec .bindRx s = .next { s with op := completed s, arb := { s.arb with rx := e } } :=
  ⟨(exec_bindTx s).trans (issue_taken hready (issueCheck_bindTx s) (by rw [bindTx, latchOp_op, hcode]; rfl)),
   (exec_bindRx s).trans (issue_taken hready (issueCheck_bindRx s) (by rw [bindRx, latchOp_op, hcode]; rfl))⟩

/-- An effect that raises a fault leaves everything else, the latched operands included, as it was. -/
theorem issue_effect_faults {o : Opcode} {stop : Bool} {effect : State → Except FaultCode State} {s : State}
    {f : FaultCode} (hready : ready s) (hcheck : issueCheck o s = none) (heffect : effect (latchOp o stop s) = .error f) :
    issue o stop effect s = .next (faulted s (faultNumber f)) := by
  obtain ⟨hclear, hidle⟩ := hready
  simp [issue, hclear, hidle, hcheck, heffect, raiseFault_of_clear hclear]

/-- An owner code that names no owner is illegal. -/
theorem exec_bind_illegal {s : State} (hready : ready s) (hcode : ownerOf? (ownerCode s.reg.addr) = none) :
    exec .bindTx s = .next (faulted s 1) ∧ exec .bindRx s = .next (faulted s 1) :=
  ⟨(exec_bindTx s).trans (issue_effect_faults (f := .illegalCmd) hready (issueCheck_bindTx s)
     (by rw [bindTx, latchOp_op, hcode])),
   (exec_bindRx s).trans (issue_effect_faults (f := .illegalCmd) hready (issueCheck_bindRx s)
     (by rw [bindRx, latchOp_op, hcode]))⟩

/-- Settles O7: the four owner codes, each by what `ownerOf?` reads from it. -/
theorem bindCommandsWriteOneSlot : Obligations.BindCommandsWriteOneSlot := by
  intro s hready
  have owner {c : BitVec 2} (hcode : s.reg.addr.extractLsb' 0 2 = c) : ownerOf? (ownerCode s.reg.addr) = ownerOf? c :=
    congrArg ownerOf? hcode
  exact ⟨fun hcode => exec_bind_owner hready (owner hcode), fun hcode => exec_bind_owner hready (owner hcode),
    fun hcode => exec_bind_owner hready (owner hcode), fun hcode => exec_bind_illegal hready (owner hcode)⟩

/-! ## The I2C commands (41_i2c.md R86, R87, R92) -/

theorem spiBusy_of_drained {s : State} (hfull : s.spi.txFull = false) (hshifting : s.spi.shifting = false) :
    spiBusy s = false := by
  simp [spiBusy, hfull, hshifting]

/-- Settles O8: the init's only check is on bus activity. -/
theorem i2cInitTakesTheBus : Obligations.I2cInitTakesTheBus := fun s hready hstopping hfull hshifting =>
  (exec_i2cInit s).trans
    (issue_taken hready ((issueCheck_i2cInit s).2 ⟨hstopping, spiBusy_of_drained hfull hshifting⟩) rfl)

/-- Settles O9: the write passes the checks on ownership, the stop and the range. -/
theorem i2cWriteIssuesTheStart : Obligations.I2cWriteIssuesTheStart := fun s stop hready harb hstopping hrange =>
  (exec_i2cWrite stop s).trans
    (issue_taken hready ((issueCheck_i2cWrite s).2 ⟨owns_of_arb harb, hstopping, hrange⟩) rfl)

/-- Settles O10: the read passes its checks, and with no stop pending `stopping` says whether the length is 1. -/
theorem i2cReadIssuesTheStart : Obligations.I2cReadIssuesTheStart := by
  intro s hready harb hstopping hlen hrange
  have hcheck : issueCheck .i2cRead s = none := (issueCheck_i2cRead s).2 ⟨owns_of_arb harb, hstopping, hlen, hrange⟩
  refine (exec_i2cRead s).trans (issue_taken hready hcheck ?_)
  by_cases hone : s.reg.len = 1 <;> simp [i2cRead, latchOp_eq, latched, hone, hstopping]

/-! ## The SPI and flash commands (42_spi.md R103 to R105, R110 to R112, 43_flash.md R124) -/

/-- Settles O11: both inits are `SpiInit` on the latched operands, where the chip sees the rise it would see before the
issue. -/
theorem spiAndFlashInitTakeTheBus : Obligations.SpiAndFlashInitTakeTheBus := by
  intro s hready hstopping hfull hshifting
  have hinit : s.i2c.stopping = false ∧ spiBusy s = false := ⟨hstopping, spiBusy_of_drained hfull hshifting⟩
  have hrise (o : Opcode) := csHigh_eq (s := s) (u := latchOp o false s) rfl rfl rfl rfl
  refine ⟨(exec_spiInit s).trans (issue_taken hready ((issueCheck_spiInit s).2 hinit) ?spi),
    (exec_flashInit s).trans (issue_taken hready ((issueCheck_flashInit s).2 hinit) ?flash), fun hcs => ?high⟩
  case spi =>
    rw [spiInit, spiInitState_eq, hrise]
    rfl
  case flash =>
    rw [flashInit, spiInitState_eq, hrise]
    rfl
  case high => simp [csHigh, hcs]

/-- Settles O12: both transfers own the bus with their buffer in range. -/
theorem spiTransfersStart : Obligations.SpiTransfersStart := fun s hready harb hrange =>
  ⟨(exec_spiWrite s).trans (issue_taken hready ((issueCheck_spiWrite s).2 ⟨owns_of_arb harb, hrange⟩) rfl),
   fun hlen => (exec_spiRead s).trans
     (issue_taken hready ((issueCheck_spiRead s).2 ⟨owns_of_arb harb, hlen, hrange⟩) rfl)⟩

/-- Settles O13: the query has no issue check. -/
theorem spiBusyLatchesTheFlag : Obligations.SpiBusyLatchesTheFlag := fun s hready =>
  (exec_spiBusy s).trans (issue_taken hready (issueCheck_spiBusy s) rfl)

/-! ## The edges of chip select (20_memory.md R52, 42_spi.md R111) -/

/-- Chip select that is high already does not rise. -/
theorem csHigh_of_high {s : State} (hcs : s.cs = true) : csHigh s = s := if_pos hcs

/-- Chip select that is low already does not fall. -/
theorem csLow_of_low {s : State} (hcs : s.cs = false) : csLow s = s := by simp [csLow, hcs]

/-- A fall opens an empty frame. -/
theorem csLow_falls {s : State} (hcs : s.cs = true) (hflash : s.par.flash = .reference) :
    csLow s = { s with cs := false, dev := { s.dev with frame := [] } } := by
  simp [csLow, hcs, hflash, clearFrame]

theorem csLow_unconstrained {s : State} (hflash : s.par.flash = .unconstrained) : csLow s = { s with cs := false } := by
  cases hcs : s.cs with
  | true => simp [csLow, hcs, hflash]
  | false => rw [csLow_of_low hcs, ← hcs]

theorem csHigh_unconstrained {s : State} (hflash : s.par.flash = .unconstrained) :
    csHigh s = { s with cs := true } := by
  cases hcs : s.cs with
  | true => rw [csHigh_of_high hcs, ← hcs]
  | false => simp [csHigh, hcs, hflash]

theorem exec_spiCsLow_taken {s : State} (hready : ready s) (howns : owns .spi s = true) :
    exec .spiCsLow s = .next (finishOp (csLow (latchOp .spiCsLow false s))) :=
  (exec_spiCsLow s).trans (issue_taken hready ((issueCheck_spiCsLow s).2 howns) rfl)

/-- Settles O14: SPI_CS_HIGH is only latched, and SPI_CS_LOW is the fall of chip select in the latched state. -/
theorem chipSelectCommandsIssue : Obligations.ChipSelectCommandsIssue := by
  intro s hready harb
  have howns : owns .spi s = true := owns_of_arb harb
  refine ⟨(exec_spiCsHigh s).trans (issue_taken hready ((issueCheck_spiCsHigh s).2 howns) rfl),
    fun hcs => ?low, fun hcs hflash => ?falls, fun hcs hflash => ?unconstrained⟩
  all_goals rw [exec_spiCsLow_taken hready howns]
  case low =>
    rw [csLow_of_low (s := latchOp .spiCsLow false s) hcs]
    rfl
  case falls =>
    rw [csLow_falls (s := latchOp .spiCsLow false s) hcs hflash]
    rfl
  case unconstrained =>
    rw [csLow_unconstrained (s := latchOp .spiCsLow false s) hflash]
    rfl

/-! ## The checks on the length and the range (60_exceptions.md R134, R138, R139) -/

theorem issueCheck_i2cRead_length {s : State} (howns : owns .i2c s = true) (hstopping : s.i2c.stopping = false)
    (hlen : s.reg.len = 0) : issueCheck .i2cRead s = some .length := by
  simp [issueCheck, needsI2c, needsSpi, isInit, readsLength, howns, hstopping, hlen]

theorem issueCheck_spi_length {o : Opcode} {s : State} (hread : o ∈ [Opcode.spiRead, .flashRead])
    (howns : owns .spi s = true) (hlen : s.reg.len = 0) : issueCheck o s = some .length := by
  have hread : o = .spiRead ∨ o = .flashRead := by simpa using hread
  rcases hread with rfl | rfl <;> simp [issueCheck, needsI2c, needsSpi, isInit, readsLength, howns, hlen]

/-- Settles O18: each read owns the bus, so that the length is the first check it fails. -/
theorem readOfLengthZeroFaults : Obligations.ReadOfLengthZeroFaults := fun s hready hlen =>
  ⟨fun harb hstopping => (exec_i2cRead s).trans
     (issue_turnedAway hready (issueCheck_i2cRead_length (owns_of_arb harb) hstopping hlen) _ _),
   fun harb =>
     have turnedAway {o : Opcode} (hread : o ∈ [Opcode.spiRead, .flashRead]) :=
       issue_turnedAway hready (issueCheck_spi_length hread (owns_of_arb harb) hlen)
     ⟨(exec_spiRead s).trans (turnedAway (by simp) _ _), (exec_flashRead s).trans (turnedAway (by simp) _ _)⟩⟩

theorem issueCheck_i2c_range {o : Opcode} {s : State} (hneeds : needsI2c o = true) (howns : owns .i2c s = true)
    (hstopping : s.i2c.stopping = false) (hlen : readsLength o = true → s.reg.len ≠ 0)
    (hrange : s.par.bufBytes < s.reg.buf.toNat + s.reg.len.toNat) : issueCheck o s = some .range := by
  have htransfer : o = .i2cWrite ∨ o = .i2cRead := by simpa [needsI2c] using hneeds
  rcases htransfer with rfl | rfl
  · simp [issueCheck, needsI2c, needsSpi, isInit, readsLength, usesBuffer, bufferFits, howns, hstopping, hrange]
  · have hlen : s.reg.len ≠ 0#16 := hlen rfl
    simp [issueCheck, needsI2c, needsSpi, isInit, readsLength, usesBuffer, bufferFits, howns, hstopping, hlen, hrange]

theorem issueCheck_spi_range {o : Opcode} {s : State} (ho : o ∈ [Opcode.spiWrite, .spiRead, .flashRead, .flashWrite])
    (howns : owns .spi s = true) (hlen : readsLength o = true → s.reg.len ≠ 0)
    (hrange : s.par.bufBytes < s.reg.buf.toNat + s.reg.len.toNat) : issueCheck o s = some .range := by
  have hlength : (readsLength o && decide (s.reg.len = 0)) = false := by
    cases hreads : readsLength o <;> simp_all
  have ho : o = .spiWrite ∨ o = .spiRead ∨ o = .flashRead ∨ o = .flashWrite := by simpa using ho
  unfold issueCheck
  rw [hlength]
  rcases ho with rfl | rfl | rfl | rfl <;> simp [needsI2c, needsSpi, isInit, usesBuffer, bufferFits, howns, hrange]

theorem issueCheck_flashReadId_range {s : State} (howns : owns .spi s = true)
    (hrange : s.par.bufBytes < s.reg.buf.toNat + 3) : issueCheck .flashReadId s = some .range := by
  simp [issueCheck, needsI2c, needsSpi, isInit, readsLength, usesBuffer, bufferFits, howns, hrange]

/-- Settles O19: each transfer passes the checks before the range, and fails that one. -/
theorem bufferOutsideMemoryFaults : Obligations.BufferOutsideMemoryFaults := by
  intro s hready
  refine ⟨fun hrange => ⟨fun harb hstopping => ?i2c, fun harb => ?spi⟩, fun hrange harb => (exec_flashReadId s).trans
    (issue_turnedAway hready (issueCheck_flashReadId_range (owns_of_arb harb) hrange) _ _)⟩
  case i2c =>
    have turnedAway {o : Opcode} (hneeds : needsI2c o = true) (hlen : readsLength o = true → s.reg.len ≠ 0) :=
      issue_turnedAway hready (issueCheck_i2c_range hneeds (owns_of_arb harb) hstopping hlen hrange)
    exact ⟨fun stop => (exec_i2cWrite stop s).trans (turnedAway rfl (by simp [readsLength]) _ _),
      fun hlen => (exec_i2cRead s).trans (turnedAway rfl (fun _ => hlen) _ _)⟩
  case spi =>
    have turnedAway {o : Opcode} (ho : o ∈ [Opcode.spiWrite, .spiRead, .flashRead, .flashWrite])
        (hlen : readsLength o = true → s.reg.len ≠ 0) :=
      issue_turnedAway hready (issueCheck_spi_range ho (owns_of_arb harb) hlen hrange)
    exact ⟨(exec_spiWrite s).trans (turnedAway (by simp) (by simp [readsLength]) _ _),
      (exec_flashWrite s).trans (turnedAway (by simp) (by simp [readsLength]) _ _),
      fun hlen => ⟨(exec_spiRead s).trans (turnedAway (by simp) (fun _ => hlen) _ _),
        (exec_flashRead s).trans (turnedAway (by simp) (fun _ => hlen) _ _)⟩⟩

end Sys2Proof.Machine
end

section
/-!
PROOFS. The flash chip (20_memory.md R52 to R59), the memory primitives (R36), the buffer window (R38) and reset. A
frame that is read from exchanges one byte while chip select is low and is dropped when it has risen, so each such frame
owes only the byte it answers.
-/

namespace Sys2Proof.Machine

/-! ## Frames that are read from (20_memory.md R53 to R55) -/

theorem exec_frameReadId (tail : List Byte) (s : State) :
    exec (.frameReadId tail) s = .next (respond (unlessBusy (readIdByte (tail.length + 1) s) s) id s) :=
  exec_frame .readId tail s

theorem exec_frameReadStatus (tail : List Byte) (s : State) :
    exec (.frameReadStatus tail) s = .next (respond (statusByte s) id s) :=
  exec_frame .readStatus tail s

theorem exec_frameRead (tail : List Byte) (s : State) :
    exec (.frameRead tail) s = .next (respond (unlessBusy (pageReadByte tail (tail.length + 1) s) s) id s) :=
  exec_frame .read tail s

theorem respond_low {s : State} (hcs : s.cs = false) (miso : Byte) (act : State → State) :
    respond miso act s = exchangeByte miso s := by
  simp [respond, hcs]

theorem unlessBusy_idle {s : State} (hwip : s.dev.wip = false) (answer : Byte) : unlessBusy answer s = answer := by
  simp [unlessBusy, hwip]

theorem unlessBusy_busy {s : State} (hwip : s.dev.wip = true) (answer : Byte) : unlessBusy answer s = s.spi.rxbuf := by
  simp [unlessBusy, hwip]

/-- The byte of an identification: one of FLASH_ID for the first three, at an idle chip. -/
theorem unlessBusy_readIdByte (n : Nat) (s : State) :
    unlessBusy (readIdByte (n + 1) s) s =
      if s.dev.wip = false ∧ n + 1 ≤ 3 then Config.flashId n else s.spi.rxbuf := by
  cases hwip : s.dev.wip with
  | true => simp [unlessBusy_busy hwip]
  | false => simp [unlessBusy_idle hwip, readIdByte]

/-- Settles O22: a byte exchanged with its answer, or an ignored frame. -/
theorem readIdFrameAnswers : Obligations.ReadIdFrameAnswers := by
  intro s tail
  rw [exec_frameReadId]
  refine ⟨fun hcs => ?_, fun hcs => ?_⟩
  · rw [respond_low hcs, unlessBusy_readIdByte, exchangeByte]
  · rw [respond_ignored hcs rfl]

/-- A bit that is put reads back, and the others are kept. -/
theorem getLsbD_putBit (v : Byte) {i : Nat} (hi : i < 8) (b : Bool) (j : Nat) :
    (putBit v i b).getLsbD j = if j = i then b else v.getLsbD j := by
  have hv : v.getLsbD j = true → j < 8 := BitVec.lt_of_getLsbD
  cases b with
  | true =>
    simp [putBit]
    grind
  | false =>
    simp [putBit]
    grind

theorem getLsbD_statusByte (s : State) (j : Nat) :
    (statusByte s).getLsbD j =
      if j = 1 then s.dev.wel else if j = 0 then s.dev.wip else s.spi.rxbuf.getLsbD j := by
  rw [statusByte, getLsbD_putBit _ (by decide), getLsbD_putBit _ (by decide)]
  rfl

/-- Settles O23: the status byte bit by bit, whether the chip is busy or not. -/
theorem readStatusFrameAnswers : Obligations.ReadStatusFrameAnswers := by
  intro s tail
  rw [exec_frameReadStatus]
  refine ⟨fun hcs => ⟨statusByte s, ?_, ?_, ?_, fun i hi => ?_⟩, fun hcs => ?_⟩
  · rw [respond_low hcs, exchangeByte]
  · rw [getLsbD_statusByte, if_neg (by decide), if_pos rfl]
  · rw [getLsbD_statusByte, if_pos rfl]
  · rw [getLsbD_statusByte, if_neg (by omega), if_neg (by omega)]
  · rw [respond_ignored hcs rfl]

/-- A page read that has not its address yet, or of a busy chip, answers the byte of the line. -/
theorem unlessBusy_pageReadByte_unanswered {tail : List Byte} {s : State} (h : tail.length < 3 ∨ s.dev.wip = true)
    (k : Nat) : unlessBusy (pageReadByte tail k s) s = s.spi.rxbuf := by
  rcases h with hshort | hwip
  · simp [unlessBusy, pageReadByte, frameAddr?_short hshort]
  · exact unlessBusy_busy hwip _

/-- The bytes of a page read from the first after the address on. -/
theorem pageReadByte_addressed (a2 a1 a0 : Byte) (rest : List Byte) (s : State) :
    pageReadByte (a2 :: a1 :: a0 :: rest) (rest.length + 4) s =
      match s.par.staleScope with
      | .pageRead =>
        if rest.length + 4 = 4 then s.spi.rxbuf
        else flashByte s.dev (((a2 ++ a1 ++ a0).toNat + (rest.length + 4) - 5) % 2 ^ 24)
      | .allReads => flashByte s.dev (((a2 ++ a1 ++ a0).toNat + (rest.length + 4) - 4) % 2 ^ 24) := by
  cases hscope : s.par.staleScope with
  | allReads => simp [pageReadByte, frameAddr?, hscope, Config.flashBytes]
  | pageRead =>
    by_cases hfirst : rest.length = 0
    · simp [pageReadByte, frameAddr?, hscope, hfirst]
    · have hlater : 5 ≤ rest.length + 4 := by omega
      simp [pageReadByte, frameAddr?, hscope, hfirst, hlater, Config.flashBytes]

/-- Settles O24: the byte answered before the address is known, and after it under either scope. -/
theorem pageReadFrameAnswers : Obligations.PageReadFrameAnswers := by
  intro s
  refine ⟨fun hcs tail h => ?unanswered, fun hcs hwip a2 a1 a0 rest => ?answered, fun hcs tail => ?dropped⟩
  all_goals rw [exec_frameRead]
  case unanswered => rw [unlessBusy_pageReadByte_unanswered h, respond_low_unanswered hcs]
  case answered =>
    rw [respond_low hcs, unlessBusy_idle hwip, List.length_cons, List.length_cons, List.length_cons,
      pageReadByte_addressed]
    rfl
  case dropped => rw [respond_ignored hcs rfl]

/-! ## Chip select and the chip's own events (20_memory.md R52, R59) -/

theorem frameParts_error {bytes : List Byte} {e : DecodeError} (h : decode (.spiFrame bytes) = .error e) :
    frameParts bytes = .error e := by
  cases hparts : frameParts bytes with
  | ok p => simp [decode, decodeFrame, hparts] at h
  | error e' => simpa [decode, decodeFrame, hparts] using h

/-- A rise runs the frame. -/
theorem csHigh_runs {s : State} {i : Instr} (hcs : s.cs = false) (hflash : s.par.flash = .reference)
    (hdecode : decode (.spiFrame s.dev.frame) = .ok i) : exec i { s with cs := true } = .next (csHigh s) := by
  obtain ⟨c, tail, hparts, rfl⟩ := decode_spiFrame_ok hdecode
  rw [exec_frame]
  simp [csHigh, hcs, hflash, hparts]

/-- A rise drops a frame that is none of the six. -/
theorem csHigh_drops {s : State} {e : DecodeError} (hcs : s.cs = false) (hflash : s.par.flash = .reference)
    (hdecode : decode (.spiFrame s.dev.frame) = .error e) :
    csHigh s = { s with cs := true, dev := { s.dev with frame := [] } } := by
  simp [csHigh, hcs, hflash, frameParts_error hdecode, clearFrame]

/-- Settles O28: the two edges and the two levels, each a lemma above. -/
theorem chipSelectEdgesAtTheChip : Obligations.ChipSelectEdgesAtTheChip := fun _ =>
  ⟨csHigh_of_high, csLow_of_low, csLow_falls, fun hcs hflash _ => csHigh_runs hcs hflash,
   fun hcs hflash _ => csHigh_drops hcs hflash, fun hflash => ⟨csLow_unconstrained hflash, csHigh_unconstrained hflash⟩⟩

/-- Settles O29: completion is enabled by `wip` alone, and a power cycle writes the latches and the frame. -/
theorem flashChipEvents : Obligations.FlashChipEvents := fun s =>
  ⟨fun hwip => (step_env .flashReady s).trans (congrArg _ (if_pos hwip)),
   fun hwip => (step_env .flashReady s).trans (congrArg _ (if_neg (ne_true_of_eq_false hwip))),
   fun _ _ => ⟨_, step_env _ s, fun _ => rfl⟩⟩

/-! ## The memory primitives (20_memory.md R36) and the buffer window (R38) -/

/-- A write to the buffer memory sets its byte and no other. -/
theorem setBufByte_moves_one (s : State) (i : Nat) (v : Byte) :
    setBufByte s i v = { s with bufmem := (setBufByte s i v).bufmem } ∧ bufByte (setBufByte s i v) i = v ∧
      ∀ x, x ≠ i → bufByte (setBufByte s i v) x = bufByte s x :=
  ⟨rfl, bufByte_setBufByte_same s i v, fun _ hne => bufByte_setBufByte_other s v hne⟩

/-- Settles O30: the header and the status byte by evaluation, the buffer memory by `setBufByte`. -/
theorem memoryPrimitivesMoveOneByte : Obligations.MemoryPrimitivesMoveOneByte := fun s i v =>
  ⟨fun hi => ⟨if_pos hi, _, if_pos hi, setBufByte_moves_one s i v⟩,
   ⟨rfl, rfl, rfl, rfl⟩, ⟨rfl, rfl, rfl, rfl⟩, rfl, rfl⟩

/-- An access to byte `i` of the window is a `windowAccess` at `i`. -/
theorem step_window {s : State} {i : Nat} (hi : i < s.par.bufBytes) (dir : Dir) (bits : Nat) (w : Word) :
    step (s.queued (.host { dir := dir, bits := bits, off := 0x100 + i, data := w })) =
      .next (windowAccess { dir := dir, bits := bits, off := 0x100 + i, data := w } i s) := by
  rw [step_host, hostAccess_window (Nat.le_add_right _ _) (Nat.add_lt_add_left hi _)]
  exact congrArg (fun j => Host.Outcome.next (windowAccess _ j s)) (Nat.add_sub_cancel_left 0x100 i)

/-- Settles O47: the window is open for bytes with no operation live, and faults otherwise. -/
theorem bufferWindowReadsAndWrites : Obligations.BufferWindowReadsAndWrites := by
  intro s i w hi
  refine ⟨fun hidle => ⟨?read, _, step_window hi .write 8 w, ?write⟩,
    fun hclear n hclosed => ⟨?readFaults, ?writeFaults⟩⟩
  case read =>
    rw [step_window hi]
    simp [windowAccess, hidle, answerHost]
  case write =>
    have hstore : windowAccess { dir := .write, bits := 8, off := 0x100 + i, data := w } i s =
        setBufByte s i (w.extractLsb' 0 8) := by
      simp [windowAccess, hidle, BitVec.setWidth_eq_extractLsb']
    rw [hstore]
    exact setBufByte_moves_one s i _
  case readFaults => rw [step_window hi, windowAccess_faulting hclosed, faultingAccess_read hclear]
  case writeFaults => rw [step_window hi, windowAccess_faulting hclosed, faultingAccess_write hclear]

/-! ## Reset (10_state.md R33, 70_reset_and_hazards.md R158 to R160) -/

/-- What reset leaves of the environment is not in the table. -/
theorem resetForm_reset (dev : FlashChip) (par : Params) (rdata : Option Word) (epoch : Nat) (moves : List Move)
    (draws : Nat) :
    ResetForm { State.reset with
      dev := dev, par := par, rdata := rdata, epoch := epoch, moves := moves, draws := draws } :=
  ⟨rfl, rfl, rfl, rfl, ⟨rfl, rfl, rfl, rfl, rfl, rfl, rfl, rfl, rfl⟩, rfl, rfl,
   ⟨rfl, rfl, rfl, rfl, rfl, rfl, rfl, rfl, rfl⟩, rfl, ⟨rfl, rfl, rfl, rfl, rfl, rfl, rfl, rfl, rfl, rfl, rfl⟩,
   rfl, rfl, rfl, rfl, rfl, rfl, fun _ => rfl⟩

theorem statusWord_reset : statusWord State.reset = 0x00000080 := by decide

/-- Settles O53: the start state and the engine after reset are the table's state in some environment. -/
theorem resetGivesTheTableOfR33 : Obligations.ResetGivesTheTableOfR33 :=
  ⟨resetForm_reset _ _ _ _ _ _, statusWord_reset, fun s =>
    ⟨resetEngine s, rfl, resetForm_reset _ _ _ _ _ _, statusWord_reset, rfl, rfl,
     fun hcs => show (csHigh s).dev = s.dev from congrArg State.dev (csHigh_of_high hcs), rfl, rfl⟩⟩

end Sys2Proof.Machine
end

section
/-!
PROOFS. The sequencer steps and the SPI clock. A sequencer step, like an event of the environment, has its effect or
none by its guard; that is said once for every step, and each then owes its guard as a proposition and its effect where
the guard holds. A flash frame runs in two of these steps.
-/

namespace Sys2Proof.Machine

/-- A sequencer step has its effect exactly when it is enabled (00_scope.md R9). -/
theorem step_seq (k : SeqStep) (s : State) :
    step (s.queued (.seq k)) = .next (if seqEnabled k s then runSeq k s else s) :=
  (apply_ite Host.Outcome.next (seqEnabled k s = true) (runSeq k s) s).symm

/-- A sequencer step whose guard is `P`, and which makes `t` of the state where `P` holds. -/
theorem step_seq_eq {k : SeqStep} {s t : State} {P : Prop} [Decidable P] (hguard : seqEnabled k s = true ↔ P)
    (heffect : P → runSeq k s = t) : step (s.queued (.seq k)) = .next (if P then t else s) := by
  rw [step_seq]
  by_cases hP : P
  · rw [if_pos (hguard.2 hP), if_pos hP, heffect hP]
  · rw [if_neg (mt hguard.1 hP), if_neg hP]

/-! ## The I2C sequencer (41_i2c.md R90, R91, R94) -/

theorem i2cWriteCont_eq (s : State) :
    i2cWriteCont s =
      if s.i2c.sendStop = true then { s with i2c := { s.i2c with stopping := true, phase := .awaitingStop } }
      else { s with
        i2c := { s.i2c with phase := .idle }, res := { s.res with nack := !s.i2c.ackOk }
        op := { s.op with opc := none } } := rfl

/-- Settles O37: each step by its guard and its effect. -/
theorem i2cSequencerSteps : Obligations.I2cSequencerSteps := fun s =>
  ⟨step_seq_eq (i2cWriteContEnabled_iff s) fun _ => i2cWriteCont_eq s,
   step_seq_eq (i2cWriteFinishEnabled_iff s) fun _ => rfl,
   step_seq_eq (i2cReadFinishEnabled_iff s) fun _ => rfl⟩

/-! ## The SPI sequencer (42_spi.md R106, R109, R112) -/

theorem spiGo_eq (s : State) :
    spiGo s =
      match s.spi.dir, s.par.staleScope with
      | .tx, _ => { s with spi := { s.spi with phase := .transferring, txie := true } }
      | .rx, .pageRead => { s with
          spi := { s.spi with phase := .transferring, rxie := true, rxFull := false, txbuf := 0, txFull := true } }
      | .rx, .allReads => { s with
          spi := { s.spi with phase := .transferring, rxie := true, txbuf := 0, txFull := true } } := by
  cases hdir : s.spi.dir <;> cases hscope : s.par.staleScope <;> simp [spiGo, hdir, hscope]

theorem spiFinish_eq (s : State) :
    spiFinish s =
      if s.op.opc = some .spiWrite ∨ s.op.opc = some .spiRead then
        { s with spi := { s.spi with phase := .idle }, op := { s.op with opc := none } }
      else { s with spi := { s.spi with phase := .idle } } := rfl

/-- The completion of SPI_CS_HIGH raises chip select, at which the chip does what it would do before the completion. -/
theorem csHighFinish_eq (s : State) :
    csHighFinish s = { s with
      op := { s.op with opc := none }, cs := true, dev := (csHigh s).dev, draws := (csHigh s).draws } := by
  rw [csHighFinish, csHigh_eq (s := s) (u := finishOp s) rfl rfl rfl rfl, finishOp]

/-- Settles O38: each step by its guard and its effect. -/
theorem spiSequencerSteps : Obligations.SpiSequencerSteps := fun s =>
  ⟨step_seq_eq (spiGoEnabled_iff s) fun _ => spiGo_eq s,
   step_seq_eq (spiFinishEnabled_iff s) fun _ => spiFinish_eq s,
   step_seq_eq (csHighFinishEnabled_iff s) fun _ => csHighFinish_eq s⟩

/-! ## The flash sequencer (43_flash.md R121, R122, R129) -/

/-- Settles O40: the delay and the completion by their guards and effects. -/
theorem eraseDelayAndFlashCompletion : Obligations.EraseDelayAndFlashCompletion := fun s =>
  ⟨step_env_eq (evEraseDelayEnabled_iff s) fun _ => rfl, step_seq_eq (flashFinishEnabled_iff s) fun _ => rfl⟩

/-- A live flash command that stands at an action runs its case of R122, or waits. -/
theorem step_flashStep {s : State} {a : Action} (hclear : s.fault = false) (hlive : flashOpLive s)
    (hat : s.fl.prog[s.fl.pc]? = some a) :
    step (s.queued (.seq .flashStep)) = .next ((runAction? a s).getD s) := by
  have hstep : flashStep? s = runAction? a s := by
    have hop : isFlashOp s.op.opc = true := hlive
    have hguard : (isFlashOp s.op.opc && !s.fault) = true := by rw [hop, hclear]; rfl
    rw [flashStep?, if_pos hguard, hat]
  rw [step_seq, seqEnabled, runSeq, hstep]
  cases runAction? a s <;> rfl

theorem runAction?_csl (s : State) :
    runAction? .csl s = some { s with cs := false, dev := (csLow s).dev, fl := { s.fl with pc := s.fl.pc + 1 } } :=
  congrArg some (csLow_eq (u := { s with fl := { s.fl with pc := s.fl.pc + 1 } }) rfl rfl rfl)

theorem runAction?_csh_drained {s : State} (hfull : s.spi.txFull = false) (hshifting : s.spi.shifting = false) :
    runAction? .csh s = some { s with
      cs := true, dev := (csHigh s).dev, draws := (csHigh s).draws, fl := { s.fl with pc := s.fl.pc + 1 } } := by
  rw [runAction?, if_neg (ne_true_of_eq_false (spiBusy_of_drained hfull hshifting)),
    csHigh_eq (s := s) (u := { s with fl := { s.fl with pc := s.fl.pc + 1 } }) rfl rfl rfl rfl]

theorem runAction?_csh_busy {s : State} (hbusy : s.spi.txFull = true ∨ s.spi.shifting = true) :
    runAction? .csh s = none :=
  if_pos ((spiBusy_iff s).2 hbusy)

theorem runAction?_starts {a : Action} {s : State} (ha : transferAction a = true) (hwaiting : s.fl.started = false) :
    runAction? a s = (actionStart? a s).map markStarted := by
  rw [runAction?_transfer ha, if_neg (ne_true_of_eq_false hwaiting)]

theorem runAction?_started {a : Action} {s : State} (ha : transferAction a = true) (hstarted : s.fl.started = true) :
    (runAction? a s).getD s =
      if s.spi.phase = .idle then { s with fl := { s.fl with started := false, pc := s.fl.pc + 1 } } else s := by
  rw [runAction?_transfer ha, if_pos hstarted]
  exact apply_ite (Option.getD · s) (s.spi.phase = .idle) (some (nextAction s)) none

/-- Settles O39: the step at each action is that action's case of R122. -/
theorem flashSequencerSteps : Obligations.FlashSequencerSteps := by
  intro s a hclear hop hat
  have hstep := step_flashStep hclear ((isFlashOp_iff _).2 hop) hat
  refine ⟨?csl, ?csh, ?cshWaits, ?delay, ?txc, ?txb, ?rxb, ?rxs, ?started⟩ <;> simp only [hstep]
  case csl =>
    rintro rfl
    rw [runAction?_csl, Option.getD_some]
  case csh =>
    rintro rfl hfull hshifting
    rw [runAction?_csh_drained hfull hshifting, Option.getD_some]
  case cshWaits =>
    rintro rfl hbusy
    rw [runAction?_csh_busy hbusy, Option.getD_none]
  case delay =>
    rintro rfl
    rfl
  case txc =>
    rintro hwaiting c k rfl
    rw [runAction?_starts rfl hwaiting]
    rfl
  case txb =>
    rintro hwaiting b n rfl
    rw [runAction?_starts rfl hwaiting]
    rfl
  case rxb =>
    rintro hwaiting b n rfl
    rw [runAction?_starts rfl hwaiting]
    rfl
  case rxs =>
    rintro hwaiting rfl
    rw [runAction?_starts rfl hwaiting]
    rfl
  case started =>
    intro hstarted ha
    rw [runAction?_started ha hstarted]

/-! ## The SPI clock (42_spi.md R113, R114) -/

theorem step_spiShiftDone {s : State} (hmode : s.arb.mode = .spi) (hclear : s.fault = false)
    (hshifting : s.spi.shifting = true) (v : Byte) :
    step (s.queued (.env (.spiShiftDone v))) =
      .next (chipShift { s with spi := { s.spi with shifting := false, rxbuf := v, rxFull := true } }) := by
  rw [step_env]
  exact congrArg _ (if_pos ((evSpiShiftDoneEnabled_iff s).2 ⟨hmode, hclear, hshifting⟩))

/-- The first byte of a frame is answered by the line. -/
theorem chipShift_opens {s : State} (hcs : s.cs = false) (hflash : s.par.flash = .reference)
    (hframe : s.dev.frame = []) :
    chipShift s = { s with dev := { s.dev with frame := [s.spi.shreg] } } := by
  simp [chipShift, hcs, hflash, hframe, frameParts, exchangeByte]

/-- Settles O42: the load by its guard and effect, the shift by what the chip does with the byte. -/
theorem spiClockEvents : Obligations.SpiClockEvents := by
  intro s
  refine ⟨step_env_eq (evSpiLoadEnabled_iff s) fun _ => rfl, fun v hnot => ?disabled,
    fun v hmode hclear hshifting => ?enabled⟩
  case disabled =>
    rw [step_env]
    exact congrArg _ (if_neg (mt (evSpiShiftDoneEnabled_iff s).1 hnot))
  case enabled =>
    rw [step_spiShiftDone hmode hclear hshifting]
    refine ⟨fun hunselected => congrArg _ (chipShift_unselected hunselected),
      fun hcs hflash hframe => congrArg _ (chipShift_opens hcs hflash hframe), fun hcs hflash => ?_⟩
    obtain ⟨r, hr⟩ := chipShift_selected
      (s := { s with spi := { s.spi with shifting := false, rxbuf := v, rxFull := true } }) hcs hflash
    exact ⟨r, congrArg _ hr⟩

/-! ## The steps that run a frame (20_memory.md R52; entry 13) -/

/-- A byte clocked into a frame runs the frame. -/
theorem chipShift_runs {s : State} {i : Instr} (hcs : s.cs = false) (hflash : s.par.flash = .reference)
    (hdecode : decode (.spiFrame s.dev.frame) = .ok i) : exec i s = .next (chipShift s) := by
  obtain ⟨c, tail, hparts, rfl⟩ := decode_spiFrame_ok hdecode
  rw [exec_frame]
  simp [chipShift, hcs, hflash, hparts]

/-- Settles O5: the frame runs at the clocked byte, and at the rise that SPI_CS_HIGH completes with. -/
theorem stepRunsTheFrame : Obligations.StepRunsTheFrame := by
  intro s i rest hdecode hclear hflash hcs
  refine ⟨fun line hmoves hmode hshifting => ?byte, fun hmoves hop hfull hshifting => ?rise⟩
  case byte =>
    have hstep := step_spiShiftDone (s := { s with moves := rest }) hmode hclear hshifting line
    rw [step_of_moves hmoves, ← step_queued, hstep]
    exact (chipShift_runs (s := { s with
      moves := rest, spi := { s.spi with shifting := false, rxbuf := line, rxFull := true } }) hcs hflash hdecode).symm
  case rise =>
    have hen : moveEnabled (.seq .csHighFinish) { s with moves := rest } = true :=
      (csHighFinishEnabled_iff _).2 ⟨hop, hfull, hshifting, hclear⟩
    rw [step_of_moves hmoves, performMove_enabled hen]
    exact (csHigh_runs (s := finishOp { s with moves := rest }) hcs hflash hdecode).symm

end Sys2Proof.Machine
end
